-- ==== Sys2Proof/Word.lean ====
section
/-! DEFINITION. The word types of the CHIP-8 core: the widths the spec gives its registers, addresses and
instruction words (00_scope.md R8, R10). -/

namespace Sys2Proof

/-- One 16-bit instruction word (30_encoding.md R70). -/
abbrev Word := BitVec 16

/-- One 8-bit value: a general register, a timer, a data-memory cell (10_state.md R20, R28; 20_memory.md R50). -/
abbrev Byte := BitVec 8

/-- A 12-bit value: a data-memory address, the index register, or the field `nnn` (10_state.md R26; 30_encoding.md R71). -/
abbrev Addr := BitVec 12

/-- The number of a general register, 0 to 15 (10_state.md R20: an index "always in [0,15]"). -/
abbrev RegIdx := Fin 16

end Sys2Proof
end

