-- ==== Sys2Proof/Config.lean ====
section
/-! DEFINITION. What the spec leaves as parameters of the core (00_scope.md R9): the two decided parameters as
plain data, and the generator's mix and seed as constants with no body (free values). -/

namespace Sys2Proof

/-- `ZERO_GROUP_DECODE` (R9, R76): how words with w1 = 0 and low byte E0 or EE decode when w2 ≠ 0.
The spec's default is `literal` (decision D11). -/
inductive ZeroGroupDecode where
  | literal
  | strict
deriving DecidableEq, Repr

/-- `MEM_ADDR_OVERFLOW` (R9, R52): what a data-memory access past 0xFFF does. The spec's default is `wrap`
(decision D3). -/
inductive MemAddrOverflow where
  | wrap
  | fault
deriving DecidableEq, Repr

/-- The two parameters of the core that the spec decides but keeps open to the other reading (R9, R35). They
are fixed when the machine is created; no step changes them. -/
structure Params where
  zeroGroupDecode : ZeroGroupDecode
  memAddrOverflow : MemAddrOverflow
deriving DecidableEq, Repr

/-- `PRNG_NEXT` (R9, R230): the generator's fixed mix, whose constants the spec does not give. FREE VALUE: no
body, so nothing can be proved about which function it is (log entry 5). -/
opaque Config.prngNext : BitVec 64 → BitVec 64

/-- `PRNG_INIT` (R9, R36): the generator's state at creation (a wall-clock or caller-supplied seed). FREE VALUE:
no body (log entry 5). -/
opaque Config.prngInit : BitVec 64

end Sys2Proof
end

