-- ==== Sys2Proof/Machine/Params.lean ====
section
/-! DEFINITION. The values the spec decides for the core's two parameters, and the capacity of the call stack. -/

namespace Sys2Proof.Machine

/-- The spec's defaults: `ZERO_GROUP_DECODE = literal`, `MEM_ADDR_OVERFLOW = wrap` (00_scope.md R9, decisions D11
and D3; log entries 2 and 3). -/
def defaultParams : Params := { zeroGroupDecode := .literal, memAddrOverflow := .wrap }

/-- `STACK_CAP`: the call stack holds at most 48 entries (00_scope.md R8, 10_state.md R27). -/
def stackCap : Nat := 48

end Sys2Proof.Machine
end

