-- ==== Sys2Proof/Syntax.lean ====
section
/-! DEFINITION. The 35 decoded instructions, one constructor per row of spec/opcode_table.json, in decoder order
(30_encoding.md R84). Operand shapes are those of R83; every field is unsigned (R71). -/

namespace Sys2Proof

/-- A decoded instruction: its identity and its operands (R73). The original word is kept beside it in the
instruction store (`Machine.Decoded`). -/
inductive Instr where
  /-- 00E0, shape None. -/
  | clearDisplay
  /-- 00EE, shape None. -/
  | returnFromSubroutine
  /-- 0NNN, shape Address. -/
  | callMachineRoutine (nnn : Addr)
  /-- 1NNN, shape Address. -/
  | jump (nnn : Addr)
  /-- 2NNN, shape Address. -/
  | callSubroutine (nnn : Addr)
  /-- 3XKK, shape RegConst. -/
  | skipIfRegEqualsConst (x : RegIdx) (kk : Byte)
  /-- 4XKK, shape RegConst. -/
  | skipIfRegNotEqualsConst (x : RegIdx) (kk : Byte)
  /-- 5XY0, shape RegReg. -/
  | skipIfRegEqualsReg (x y : RegIdx)
  /-- 6XKK, shape RegConst. -/
  | setRegConst (x : RegIdx) (kk : Byte)
  /-- 7XKK, shape RegConst. -/
  | addConstNoFlag (x : RegIdx) (kk : Byte)
  /-- 8XY0, shape RegReg. -/
  | setRegReg (x y : RegIdx)
  /-- 8XY1, shape RegReg. -/
  | orReg (x y : RegIdx)
  /-- 8XY2, shape RegReg. -/
  | andReg (x y : RegIdx)
  /-- 8XY3, shape RegReg. -/
  | xorReg (x y : RegIdx)
  /-- 8XY4, shape RegReg. -/
  | addReg (x y : RegIdx)
  /-- 8XY5, shape RegReg. -/
  | subReg (x y : RegIdx)
  /-- 8XY6, shape RegReg; `y` is decoded and unused. -/
  | shiftRight (x y : RegIdx)
  /-- 8XY7, shape RegReg. -/
  | subRegReversed (x y : RegIdx)
  /-- 8XYE, shape RegReg; `y` is decoded and unused. -/
  | shiftLeft (x y : RegIdx)
  /-- 9XY0, shape RegReg. -/
  | skipIfRegNotEqualsReg (x y : RegIdx)
  /-- ANNN, shape Address. -/
  | setIndexConst (nnn : Addr)
  /-- BNNN, shape Address. -/
  | jumpIndexed (nnn : Addr)
  /-- CXKK, shape RegConst. -/
  | randomMasked (x : RegIdx) (kk : Byte)
  /-- DXYN, shape RegRegNibble; `n` is the sprite's height in bytes. -/
  | drawSprite (x y : RegIdx) (n : BitVec 4)
  /-- EX9E, shape Reg. -/
  | skipIfKeyPressed (x : RegIdx)
  /-- EXA1, shape Reg. -/
  | skipIfKeyNotPressed (x : RegIdx)
  /-- FX07, shape Reg. -/
  | getDelayTimer (x : RegIdx)
  /-- FX0A, shape Reg. -/
  | awaitKeyThenStore (x : RegIdx)
  /-- FX15, shape Reg. -/
  | setDelayTimer (x : RegIdx)
  /-- FX18, shape Reg. -/
  | setSoundTimer (x : RegIdx)
  /-- FX1E, shape Reg. -/
  | addIndexReg (x : RegIdx)
  /-- FX29, shape Reg. -/
  | setIndexToSpriteGlyph (x : RegIdx)
  /-- FX33, shape Reg. -/
  | storeBCD (x : RegIdx)
  /-- FX55, shape Reg. -/
  | dumpRegistersToMemory (x : RegIdx)
  /-- FX65, shape Reg. -/
  | loadRegistersFromMemory (x : RegIdx)
deriving DecidableEq, Repr

end Sys2Proof
end

