-- ==== Sys2Proof/Machine/State.lean ====
section
/-! DEFINITION. The state of the core as plain data (10_state.md), the reasons it can stop, and the state at
creation, which is the core's only reset (R36). -/

namespace Sys2Proof.Machine

/-- The five identities that decode and are not implemented (48_not_implemented.md R260). -/
inductive Unimplemented where
  | callMachineRoutine
  | skipIfKeyPressed
  | skipIfKeyNotPressed
  | awaitKeyThenStore
  | setIndexToSpriteGlyph
deriving DecidableEq, Repr

/-- The kinds of runtime fault (60_exceptions.md R270). An instruction that raises one takes a NEXT state whose
status is `faulted` with the kind (R273); `step` answers `.fault` with the kind from a state that is already
faulted, which changes nothing (R111). Safe: the state is kept, nothing runs on. -/
inductive Fault where
  /-- CallSubroutine on a full call stack (R131). Safe. -/
  | stackOverflow
  /-- ReturnFromSubroutine on an empty call stack (R132). Safe. -/
  | stackUnderflow
  /-- One of the five unimplemented instructions, always (R260); the kind and the identity. Safe. -/
  | notImplemented (which : Unimplemented)
  /-- FX33, FX55, FX65 or DXYN under `MEM_ADDR_OVERFLOW = fault` with an address past 0xFFF; records the
  address I + k (R52, R270). Safe. -/
  | memoryBounds (address : Nat)
deriving DecidableEq, Repr

/-- Reasons for having no meaning. Every instruction of the core has one, so no run reaches this. -/
inductive Refusal where
  /-- Raised by `exec` alone, for an instruction without a meaning yet: none is left. Safe. -/
  | notModelled (mnemonic : String)
deriving DecidableEq, Repr

/-- The run status (R32). Halt is no status: the core is halted when `pc` is past the program's end (R23). -/
inductive Status where
  | running
  | faulted (kind : Fault)
deriving DecidableEq, Repr

/-- One entry of the instruction store: the decoded instruction and the original word, "kept for diagnostics"
(30_encoding.md R73). -/
structure Decoded where
  instr : Instr
  word : Word
deriving DecidableEq, Repr

/-- V0 to VF (R20). -/
abbrev Regs := Vector Byte 16

/-- The framebuffer (R29): 64 columns of 32 cells; `fb[c][r]` is the cell `FB[c][r]`, `true` for 1. -/
abbrev Framebuffer := Vector (Vector Bool 32) 64

/-- The data memory (20_memory.md R50) as the list of its non-zero cells, addresses strictly rising. An unlisted
address reads as 0, its value at creation (R36). -/
abbrev Memory := List Host.Cell

/-- The state of the core: everything 10_state.md and 20_memory.md give it (R4, R20 to R34, R50, R54), and the two
parameters fixed at creation (R35; log entry 1). -/
structure State where
  /-- V0 to VF; VF is also the flag register (R20, R21). -/
  v : Regs
  /-- The 12-bit index register I (R26). -/
  i : Addr
  /-- The program counter, an index into `program`, unbounded (R23). -/
  pc : Nat
  /-- The call stack, the top first (R27). -/
  stack : List Nat
  /-- The delay timer (R28). -/
  dt : Byte
  /-- The sound timer (R28). -/
  st : Byte
  /-- The framebuffer (R29). -/
  fb : Framebuffer
  /-- The frame-changed flag (R30). -/
  frameChanged : Bool
  /-- The generator's state (R31). -/
  rng : BitVec 64
  /-- The run status (R32). -/
  status : Status
  /-- The data memory (R34, R50). -/
  mem : Memory
  /-- The instruction store `P` (R34, R54); its length is `N`. -/
  program : List Decoded
  /-- The parameters of R9 that the spec decides (R35). -/
  params : Params
deriving DecidableEq, Repr

/-- What one instruction or one step answers. -/
abbrev Answer := Host.Outcome State Fault Refusal

/-- The state at creation of an empty program (R36, R300). `rng` is the free value `PRNG_INIT`. The values the
source does not state are the spec's decision D2 (log entry 4). -/
def State.reset : State where
  v := Vector.replicate 16 0
  i := 0
  pc := 0
  stack := []
  dt := 0
  st := 0
  fb := Vector.replicate 64 (Vector.replicate 32 false)
  frameChanged := false
  rng := Config.prngInit
  status := .running
  mem := []
  program := []
  params := defaultParams

end Sys2Proof.Machine
end

