-- ==== Sys2Proof/Machine/Ops.lean ====
section
/-! DEFINITION. The named operations over memory, registers, call stack and framebuffer (the primitives of
00_scope.md R12), and the one operation by which an instruction raises a fault. -/

namespace Sys2Proof.Machine

/-! ### Data memory (20_memory.md R50, R60) -/

/-- What a cell reads as when nothing is listed for it: 0, its value at creation (10_state.md R36). -/
def unlistedByte : Byte := 0

/-- `mem[a]`: the listed byte, else the value at creation. -/
def Memory.read (m : Memory) (a : Addr) : Byte :=
  match m with
  | [] => unlistedByte
  | c :: rest => if c.1 = a.toNat then c.2 else Memory.read rest a

/-- The memory with no cell listed at address `k`. -/
def Memory.erase (m : Memory) (k : Nat) : Memory := m.filter fun c => c.1 != k

/-- The memory with a cell put in its place by address; meant for an address that is not listed. -/
def Memory.insertCell (c : Host.Cell) : Memory → Memory
  | [] => [c]
  | d :: rest => if c.1 < d.1 then c :: d :: rest else d :: Memory.insertCell c rest

/-- `mem[a] <- v`, keeping the canonical form: a byte equal to the unlisted value is not listed. -/
def Memory.write (m : Memory) (a : Addr) (v : Byte) : Memory :=
  if v = unlistedByte then Memory.erase m a.toNat
  else Memory.insertCell (a.toNat, v) (Memory.erase m a.toNat)

/-- Byte writes in the order of the list. -/
def Memory.writeAll (m : Memory) : List (Addr × Byte) → Memory
  | [] => m
  | (a, v) :: rest => Memory.writeAll (Memory.write m a v) rest

/-- The canonical form: every listed address is below 4096 and above the ones before it, and no listed byte equals
the unlisted value. -/
def Memory.wf : Memory → Bool
  | [] => true
  | c :: rest =>
    decide (c.1 < 4096) && decide (c.2 ≠ unlistedByte) && rest.all (fun d => decide (c.1 < d.1)) && Memory.wf rest

/-! ### Registers (10_state.md R20, R21, R26) -/

/-- `VF`, register 15, also the flag register (R21). -/
def regF : RegIdx := 15

/-- `V[x]`. -/
def State.getV (s : State) (x : RegIdx) : Byte := s.v[x.val]

/-- `V[x] <- b`. -/
def State.setV (s : State) (x : RegIdx) (b : Byte) : State := { s with v := s.v.set x.val b }

/-- `V[x] <- result`, then `VF <- flag`: the flag is written last, so it wins when x = 0xF (43_arith_bitwise.md
R171; log entry 10). -/
def State.setResultAndFlag (s : State) (x : RegIdx) (result flag : Byte) : State :=
  (s.setV x result).setV regF flag

/-- `I <- a`. -/
def State.setI (s : State) (a : Addr) : State := { s with i := a }

/-- `pc <- target`. -/
def State.setPc (s : State) (target : Nat) : State := { s with pc := target }

/-- `V[k] <- mem[a_k]` for consecutive registers from `k` on, one for each address of the list. -/
def loadRegs (m : Memory) : Nat → List Addr → Regs → Regs
  | _, [], v => v
  | k, a :: rest, v => loadRegs m (k + 1) rest (v.setIfInBounds k (m.read a))

/-! ### Call stack (10_state.md R27) -/

/-- `depth`. -/
def State.depth (s : State) : Nat := s.stack.length

/-- `Push(p)`; the caller has checked the capacity (41_flow_control.md R131). -/
def State.push (s : State) (p : Nat) : State := { s with stack := p :: s.stack }

/-! ### Framebuffer (10_state.md R29; 47_display.md R240 to R242) -/

/-- `FB[c][r]`. -/
def Framebuffer.get (fb : Framebuffer) (c : Fin 64) (r : Fin 32) : Bool := fb[c.val][r.val]

/-- `FB[c][r] <- FB[c][r] ^ 1`. -/
def Framebuffer.flip (fb : Framebuffer) (c : Fin 64) (r : Fin 32) : Framebuffer :=
  fb.set c.val (fb[c.val].set r.val (!fb[c.val][r.val]))

/-- All 2048 cells 0. -/
def Framebuffer.blank : Framebuffer := Vector.replicate 64 (Vector.replicate 32 false)

/-- The pixels one sprite byte flips, in the order drawn: bit 7 − j is column j, and both coordinates are
reduced (R240, R242). -/
def rowPixels (cx cy r : Nat) (b : Byte) : List (Fin 64 × Fin 32) :=
  ((List.range 8).filter fun j => b.getLsbD (7 - j)).map fun j => (Fin.ofNat 64 (cx + j), Fin.ofNat 32 (cy + r))

/-- The pixels a sprite flips, in the order drawn: row `r` for the first byte, the next row for the next. -/
def spritePixels (cx cy : Nat) : Nat → List Byte → List (Fin 64 × Fin 32)
  | _, [] => []
  | r, b :: rest => rowPixels cx cy r b ++ spritePixels cx cy (r + 1) rest

/-- Flip the pixels in order. The Bool is the collision so far, OR-accumulated over the whole sprite (R242). -/
def drawPixels (fb : Framebuffer) (collision : Bool) : List (Fin 64 × Fin 32) → Framebuffer × Bool
  | [] => (fb, collision)
  | p :: rest => drawPixels (fb.flip p.1 p.2) (collision || fb.get p.1 p.2) rest

/-! ### Raising a fault (60_exceptions.md R273) -/

/-- `raise F`: the instruction has changed nothing, the pc keeps its increment, and the status becomes
`Faulted(F)` (R273). There is no return from it (R275), so no operation stands beside this one. -/
def State.raise (s : State) (f : Fault) : State := { s with status := .faulted f }

end Sys2Proof.Machine
end

