-- ==== Sys2Proof/Machine/Timers.lean ====
section
/-! DEFINITION. The timer instructions and the per-cycle decay (45_timers.md). -/

namespace Sys2Proof.Machine

/-- GetDelayTimer, FX07 (R220): reads DT before this cycle's decay. -/
def execGetDelayTimer (x : RegIdx) (s : State) : Answer := .next (s.setV x s.dt)

/-- SetDelayTimer, FX15 (R221); the same cycle's decay follows. -/
def execSetDelayTimer (x : RegIdx) (s : State) : Answer := .next { s with dt := s.getV x }

/-- SetSoundTimer, FX18 (R222); the same cycle's decay follows. -/
def execSetSoundTimer (x : RegIdx) (s : State) : Answer := .next { s with st := s.getV x }

/-- One decrement, "saturating at 0 (never below)" (R223). -/
def decayByte (t : Byte) : Byte := if t = 0 then 0 else t - 1

/-- The per-cycle decay of both timers (R223). -/
def State.decay (s : State) : State := { s with dt := decayByte s.dt, st := decayByte s.st }

end Sys2Proof.Machine
end

