-- ==== Sys2Proof/Machine/Cycle.lean ====
section
/-! DEFINITION. The fetch-execute cycle (40_cycle.md), over a function that runs one instruction, its result type,
and the read-only view of the state a host has (60_exceptions.md R282). `Step.lean` applies it to `exec`. -/

namespace Sys2Proof.Machine

/-- What one call of `cycle()` returns (R119). -/
inductive CycleResult where
  /-- The instruction completed: the frame snapshot if the frame changed, and the sound bit. -/
  | ok (frame : Option Framebuffer) (sound : Bool)
  /-- `pc ≥ N`: the normal end of a program. -/
  | halt
  /-- The instruction raised a fault, or the core was already faulted. -/
  | fault (kind : Fault)
deriving DecidableEq, Repr

/-- What a cycle leaves: the new state and the result. -/
abbrev CycleAnswer := Host.Outcome (State × CycleResult) Fault Refusal

/-- `P[pc]`, or `none` where `pc ≥ N` (R113, R114). -/
def State.fetch (s : State) : Option Decoded := s.program[s.pc]?

/-- `frame_changed <- false` (R112). -/
def State.clearFrameChanged (s : State) : State := { s with frameChanged := false }

/-- The state the instruction runs in: the flag cleared and the pc one past the instruction (R112, R115). -/
def State.begin (s : State) : State := { s with frameChanged := false, pc := s.pc + 1 }

/-- After the instruction: the timers decay unless it raised a fault (R116, R117, R273). -/
def State.finish (s : State) : State :=
  match s.status with
  | .running => s.decay
  | .faulted _ => s

/-- The result of a cycle that ran an instruction, read from the state it leaves, after the decay (R118, R119). -/
def State.report (s : State) : CycleResult :=
  match s.status with
  | .running => .ok (if s.frameChanged then some s.fb else none) (decide (0 < s.st.toNat))
  | .faulted k => .fault k

/-- What a cycle that ran an instruction answers, from what the instruction answered. -/
def finishCycle : Answer → CycleAnswer
  | .next t => .next (t.finish, t.finish.report)
  | .fault f => .fault f
  | .refused r => .refused r

/-- `cycle()` (R120) over a function `ex` that runs an instruction. -/
def cycleWith (ex : Instr → State → Answer) (s : State) : CycleAnswer :=
  match s.status with
  | .faulted k => .next (s, .fault k)
  | .running =>
    match s.fetch with
    | none => .next (s.clearFrameChanged, .halt)
    | some d => finishCycle (ex d.instr s.begin)

/-- The state a cycle leaves. -/
def dropResult : CycleAnswer → Answer
  | .next p => .next p.1
  | .fault f => .fault f
  | .refused r => .refused r

/-- One step: the state the cycle leaves; from a state that is already faulted, where the cycle changes nothing,
the fault itself (R111; log entry 6). -/
def stepWith (ex : Instr → State → Answer) (s : State) : Answer :=
  match s.status with
  | .faulted k => .fault k
  | .running => dropResult (cycleWith ex s)

/-- The introspection surface (60_exceptions.md R282): all 16 registers, I, the full stack (top first) and its
depth, and the timer pair. -/
structure View where
  v : Regs
  i : Addr
  stack : List Nat
  depth : Nat
  timers : Byte × Byte
deriving DecidableEq, Repr

/-- What a host sees of a state, in every condition. A pure query (R282). -/
def State.introspect (s : State) : View :=
  { v := s.v, i := s.i, stack := s.stack, depth := s.depth, timers := (s.dt, s.st) }

end Sys2Proof.Machine
end

