-- ==== Sys2Proof/Machine/Flags.lean ====
section
/-! DEFINITION. The flag computations: every value VF can receive as a flag, 0 or 1 (43_arith_bitwise.md R170). -/

namespace Sys2Proof.Machine

/-- A flag as the byte VF receives. -/
def flagByte (b : Bool) : Byte := if b then 1 else 0

/-- AddReg (R178): 1 iff the unsigned sum exceeds 255. -/
def carryFlag (a b : Byte) : Byte := flagByte (decide (255 < a.toNat + b.toNat))

/-- SubReg and SubRegReversed (R179, R181): NOT borrow, 1 iff the minuend is at least the subtrahend. -/
def noBorrowFlag (a b : Byte) : Byte := flagByte (decide (b.toNat ≤ a.toNat))

/-- ShiftRight (R180): the bit shifted out, `a[0]`. -/
def shiftedOutRight (a : Byte) : Byte := flagByte (a.getLsbD 0)

/-- ShiftLeft (R182): the bit shifted out, `a[7]`. -/
def shiftedOutLeft (a : Byte) : Byte := flagByte (a.getLsbD 7)

/-- DrawSprite (47_display.md R242): 1 iff some flip turned a pixel from set to unset. -/
def collisionFlag (c : Bool) : Byte := flagByte c

end Sys2Proof.Machine
end

