-- ==== Sys2Proof/Machine/Arithmetic.lean ====
section
/-! DEFINITION. Register loads, arithmetic and bitwise operations (43_arith_bitwise.md). All values are unsigned
and 8 bits wide; results are reduced modulo 256 (R170). -/

namespace Sys2Proof.Machine

/-- SetRegConst, 6XKK (R172). -/
def execSetRegConst (x : RegIdx) (kk : Byte) (s : State) : Answer := .next (s.setV x kk)

/-- AddConstNoFlag, 7XKK (R173): wraps, sets no flag. -/
def execAddConstNoFlag (x : RegIdx) (kk : Byte) (s : State) : Answer := .next (s.setV x (s.getV x + kk))

/-- SetRegReg, 8XY0 (R174). -/
def execSetRegReg (x y : RegIdx) (s : State) : Answer := .next (s.setV x (s.getV y))

/-- Or, 8XY1 (R175). -/
def execOr (x y : RegIdx) (s : State) : Answer := .next (s.setV x (s.getV x ||| s.getV y))

/-- And, 8XY2 (R176). -/
def execAnd (x y : RegIdx) (s : State) : Answer := .next (s.setV x (s.getV x &&& s.getV y))

/-- Xor, 8XY3 (R177). -/
def execXor (x y : RegIdx) (s : State) : Answer := .next (s.setV x (s.getV x ^^^ s.getV y))

/-- AddReg, 8XY4 (R178): the sum modulo 256, then VF = carry. -/
def execAddReg (x y : RegIdx) (s : State) : Answer :=
  .next (s.setResultAndFlag x (s.getV x + s.getV y) (carryFlag (s.getV x) (s.getV y)))

/-- SubReg, 8XY5 (R179): `V[x] - V[y]` modulo 256, then VF = NOT borrow. -/
def execSubReg (x y : RegIdx) (s : State) : Answer :=
  .next (s.setResultAndFlag x (s.getV x - s.getV y) (noBorrowFlag (s.getV x) (s.getV y)))

/-- ShiftRight, 8XY6 (R180): `V[x] >> 1`, then VF = the bit shifted out; `V[y]` is neither read nor written. -/
def execShiftRight (x _y : RegIdx) (s : State) : Answer :=
  .next (s.setResultAndFlag x (s.getV x >>> 1) (shiftedOutRight (s.getV x)))

/-- SubRegReversed, 8XY7 (R181): `V[y] - V[x]` modulo 256, then VF = NOT borrow. -/
def execSubRegReversed (x y : RegIdx) (s : State) : Answer :=
  .next (s.setResultAndFlag x (s.getV y - s.getV x) (noBorrowFlag (s.getV y) (s.getV x)))

/-- ShiftLeft, 8XYE (R182): `V[x] << 1` truncated, then VF = the bit shifted out; `V[y]` is not used. -/
def execShiftLeft (x _y : RegIdx) (s : State) : Answer :=
  .next (s.setResultAndFlag x (s.getV x <<< 1) (shiftedOutLeft (s.getV x)))

end Sys2Proof.Machine
end

