-- ==== Sys2Proof/Machine/Operands.lean ====
section
/-! DEFINITION. The operand forms of the core: control-transfer targets (41_flow_control.md), the byte a random
draw gives, and the effective addresses of data memory (20_memory.md R52, R53). -/

namespace Sys2Proof.Machine

/-- `zext(nnn)` as an instruction index (30_encoding.md R74). -/
def targetOf (nnn : Addr) : Nat := nnn.toNat

/-- `zext(V[0]) + zext(nnn)`, not reduced to 12 bits (R133, decision D10; log entry 14). -/
def indexedTarget (s : State) (nnn : Addr) : Nat := (s.getV 0).toNat + nnn.toNat

/-- `rng[7:0]` (46_random.md R231). -/
def lowByte (r : BitVec 64) : Byte := r.extractLsb' 0 8

/-- `EA(k)` (R52): the address of the byte at offset `k` from I, or the fault the parameter asks for. -/
def effectiveAddr (mode : MemAddrOverflow) (i : Addr) (k : Nat) : Except Fault Addr :=
  if i.toNat + k ≤ 0xFFF then .ok (BitVec.ofNat 12 (i.toNat + k))
  else match mode with
    | .wrap => .ok (BitVec.ofNat 12 ((i.toNat + k) % 4096))
    | .fault => .error (.memoryBounds (i.toNat + k))

/-- `EA(k), EA(k+1), …` for `n` offsets, in order; the first address that faults decides (R53). -/
def effectiveAddrsFrom (mode : MemAddrOverflow) (i : Addr) : Nat → Nat → Except Fault (List Addr)
  | _, 0 => .ok []
  | k, n + 1 =>
    match effectiveAddr mode i k with
    | .error f => .error f
    | .ok a =>
      match effectiveAddrsFrom mode i (k + 1) n with
      | .error f => .error f
      | .ok rest => .ok (a :: rest)

/-- The addresses of all `n` bytes an instruction touches: `EA(0)` to `EA(n-1)`, checked before its first write
(R53; log entry 17). -/
def State.addrs (s : State) (n : Nat) : Except Fault (List Addr) :=
  effectiveAddrsFrom s.params.memAddrOverflow s.i 0 n

/-- An instruction that touches `n` bytes from I on: it raises MemoryBounds before any change (R53), or goes on
with the addresses. -/
def State.withAddrs (s : State) (n : Nat) (effect : List Addr → State) : Answer :=
  match s.addrs n with
  | .error f => .next (s.raise f)
  | .ok as => .next (effect as)

end Sys2Proof.Machine
end

