-- ==== Sys2Proof/Machine/Display.lean ====
section
/-! DEFINITION. The display instructions (47_display.md). -/

namespace Sys2Proof.Machine

/-- ClearDisplay, 00E0 (R241): all cells 0, and the frame is marked changed. -/
def execClearDisplay (s : State) : Answer := .next { s with fb := Framebuffer.blank, frameChanged := true }

/-- What drawing the bytes at the given addresses leaves (R242): the pixels flipped, the frame marked changed,
and VF = collision written last. The coordinates are read before VF is written. -/
def State.drawFrom (s : State) (x y : RegIdx) (as : List Addr) : State :=
  let drawn := drawPixels s.fb false
    (spritePixels (s.getV x).toNat (s.getV y).toNat 0 (as.map fun a => s.mem.read a))
  { s with fb := drawn.1, frameChanged := true }.setV regF (collisionFlag drawn.2)

/-- DrawSprite, DXYN (R242): `n` sprite bytes from I on. -/
def execDrawSprite (x y : RegIdx) (n : BitVec 4) (s : State) : Answer :=
  s.withAddrs n.toNat (s.drawFrom x y)

end Sys2Proof.Machine
end

