-- ==== Sys2Proof/Machine/FlowControl.lean ====
section
/-! DEFINITION. Flow control (41_flow_control.md). Every meaning reads the pc the cycle has already incremented
(40_cycle.md R115). -/

namespace Sys2Proof.Machine

/-- Jump, 1NNN (R130): `pc <- zext(nnn)`. -/
def execJump (nnn : Addr) (s : State) : Answer := .next (s.setPc (targetOf nnn))

/-- CallSubroutine, 2NNN (R131): StackOverflow on a full stack, before the push; else push the pc and jump. -/
def execCallSubroutine (nnn : Addr) (s : State) : Answer :=
  if stackCap ≤ s.depth then .next (s.raise .stackOverflow)
  else .next ((s.push s.pc).setPc (targetOf nnn))

/-- ReturnFromSubroutine, 00EE (R132): StackUnderflow on an empty stack; else pop into the pc. -/
def execReturnFromSubroutine (s : State) : Answer :=
  match s.stack with
  | [] => .next (s.raise .stackUnderflow)
  | top :: rest => .next { s with stack := rest, pc := top }

/-- JumpIndexed, BNNN (R133): `pc <- zext(V[0]) + zext(nnn)`. -/
def execJumpIndexed (nnn : Addr) (s : State) : Answer := .next (s.setPc (indexedTarget s nnn))

end Sys2Proof.Machine
end

