-- ==== Sys2Proof/Machine/MemoryIndex.lean ====
section
/-! DEFINITION. The index register and memory transfers (44_memory_index.md). No instruction changes I as a side
effect of an access (R205). -/

namespace Sys2Proof.Machine

/-- SetIndexConst, ANNN (R200). -/
def execSetIndexConst (nnn : Addr) (s : State) : Answer := .next (s.setI nnn)

/-- AddIndexReg, FX1E (R201): `I <- (I + V[x]) mod 4096`; VF is not written. -/
def execAddIndexReg (x : RegIdx) (s : State) : Answer :=
  .next (s.setI (BitVec.ofNat 12 (s.i.toNat + (s.getV x).toNat)))

/-- The three decimal digits of a byte: hundreds, tens, units (R202). -/
def bcdDigits (v : Byte) : List Byte :=
  [BitVec.ofNat 8 (v.toNat / 100), BitVec.ofNat 8 (v.toNat / 10 % 10), BitVec.ofNat 8 (v.toNat % 10)]

/-- StoreBCD, FX33 (R202): the digits of `V[x]` to `EA(0)`, `EA(1)`, `EA(2)`. -/
def execStoreBCD (x : RegIdx) (s : State) : Answer :=
  s.withAddrs 3 fun as => { s with mem := s.mem.writeAll (as.zip (bcdDigits (s.getV x))) }

/-- DumpRegistersToMemory, FX55 (R203): V0 to V[x] to `EA(0)` to `EA(x)`. -/
def execDumpRegistersToMemory (x : RegIdx) (s : State) : Answer :=
  s.withAddrs (x.val + 1) fun as => { s with mem := s.mem.writeAll (as.zip s.v.toList) }

/-- LoadRegistersFromMemory, FX65 (R204): V0 to V[x] from `EA(0)` to `EA(x)`. -/
def execLoadRegistersFromMemory (x : RegIdx) (s : State) : Answer :=
  s.withAddrs (x.val + 1) fun as => { s with v := loadRegs s.mem 0 as s.v }

end Sys2Proof.Machine
end

