-- ==== Sys2Proof/Machine/NotImplemented.lean ====
section
/-! DEFINITION. The five instructions that decode and always raise NotImplemented, before touching any state
(48_not_implemented.md R260). -/

namespace Sys2Proof.Machine

/-- CallMachineRoutine, 0NNN (R261). -/
def execCallMachineRoutine (_nnn : Addr) (s : State) : Answer :=
  .next (s.raise (.notImplemented .callMachineRoutine))

/-- SkipIfKeyPressed, EX9E (R262). -/
def execSkipIfKeyPressed (_x : RegIdx) (s : State) : Answer :=
  .next (s.raise (.notImplemented .skipIfKeyPressed))

/-- SkipIfKeyNotPressed, EXA1 (R263). -/
def execSkipIfKeyNotPressed (_x : RegIdx) (s : State) : Answer :=
  .next (s.raise (.notImplemented .skipIfKeyNotPressed))

/-- AwaitKeyThenStore, FX0A (R264): the core does not wait. -/
def execAwaitKeyThenStore (_x : RegIdx) (s : State) : Answer :=
  .next (s.raise (.notImplemented .awaitKeyThenStore))

/-- SetIndexToSpriteGlyph, FX29 (R265). -/
def execSetIndexToSpriteGlyph (_x : RegIdx) (s : State) : Answer :=
  .next (s.raise (.notImplemented .setIndexToSpriteGlyph))

end Sys2Proof.Machine
end

