-- ==== Sys2Proof/Machine/Random.lean ====
section
/-! DEFINITION. The pseudo-random generator (46_random.md). -/

namespace Sys2Proof.Machine

/-- RandomMasked, CXKK (R231): one `next()`, then `V[x] <- rng[7:0] & kk` from the new state. -/
def execRandomMasked (x : RegIdx) (kk : Byte) (s : State) : Answer :=
  .next ({ s with rng := Config.prngNext s.rng }.setV x (lowByte (Config.prngNext s.rng) &&& kk))

end Sys2Proof.Machine
end

