-- ==== Sys2Proof/Machine/Skips.lean ====
section
/-! DEFINITION. Conditional skips (42_skips.md), over the shared step of R150. -/

namespace Sys2Proof.Machine

/-- The skip mechanism (R150): `if predicate: pc <- pc + 1`. -/
def State.skipIf (s : State) (predicate : Bool) : State :=
  if predicate then s.setPc (s.pc + 1) else s

/-- SkipIfRegEqualsConst, 3XKK (R151). -/
def execSkipIfRegEqualsConst (x : RegIdx) (kk : Byte) (s : State) : Answer :=
  .next (s.skipIf (decide (s.getV x = kk)))

/-- SkipIfRegNotEqualsConst, 4XKK (R152). -/
def execSkipIfRegNotEqualsConst (x : RegIdx) (kk : Byte) (s : State) : Answer :=
  .next (s.skipIf (decide (s.getV x ≠ kk)))

/-- SkipIfRegEqualsReg, 5XY0 (R153). -/
def execSkipIfRegEqualsReg (x y : RegIdx) (s : State) : Answer :=
  .next (s.skipIf (decide (s.getV x = s.getV y)))

/-- SkipIfRegNotEqualsReg, 9XY0 (R154). -/
def execSkipIfRegNotEqualsReg (x y : RegIdx) (s : State) : Answer :=
  .next (s.skipIf (decide (s.getV x ≠ s.getV y)))

end Sys2Proof.Machine
end

