-- ==== Sys2Proof/Machine/Dispatch.lean ====
section
/-! DEFINITION. One arm per instruction, in the order of spec/opcode_table.json (30_encoding.md R84). -/

namespace Sys2Proof.Machine

/-- The semantics of a decoded instruction (40_cycle.md R116), run in the state the cycle has prepared. -/
def exec (i : Instr) (s : State) : Host.Outcome State Fault Refusal :=
  match i with
  | .clearDisplay => Sys2Proof.Machine.execClearDisplay s
  | .returnFromSubroutine => Sys2Proof.Machine.execReturnFromSubroutine s
  | .callMachineRoutine nnn => Sys2Proof.Machine.execCallMachineRoutine nnn s
  | .jump nnn => Sys2Proof.Machine.execJump nnn s
  | .callSubroutine nnn => Sys2Proof.Machine.execCallSubroutine nnn s
  | .skipIfRegEqualsConst x kk => Sys2Proof.Machine.execSkipIfRegEqualsConst x kk s
  | .skipIfRegNotEqualsConst x kk => Sys2Proof.Machine.execSkipIfRegNotEqualsConst x kk s
  | .skipIfRegEqualsReg x y => Sys2Proof.Machine.execSkipIfRegEqualsReg x y s
  | .setRegConst x kk => Sys2Proof.Machine.execSetRegConst x kk s
  | .addConstNoFlag x kk => Sys2Proof.Machine.execAddConstNoFlag x kk s
  | .setRegReg x y => Sys2Proof.Machine.execSetRegReg x y s
  | .orReg x y => Sys2Proof.Machine.execOr x y s
  | .andReg x y => Sys2Proof.Machine.execAnd x y s
  | .xorReg x y => Sys2Proof.Machine.execXor x y s
  | .addReg x y => Sys2Proof.Machine.execAddReg x y s
  | .subReg x y => Sys2Proof.Machine.execSubReg x y s
  | .shiftRight x y => Sys2Proof.Machine.execShiftRight x y s
  | .subRegReversed x y => Sys2Proof.Machine.execSubRegReversed x y s
  | .shiftLeft x y => Sys2Proof.Machine.execShiftLeft x y s
  | .skipIfRegNotEqualsReg x y => Sys2Proof.Machine.execSkipIfRegNotEqualsReg x y s
  | .setIndexConst nnn => Sys2Proof.Machine.execSetIndexConst nnn s
  | .jumpIndexed nnn => Sys2Proof.Machine.execJumpIndexed nnn s
  | .randomMasked x kk => Sys2Proof.Machine.execRandomMasked x kk s
  | .drawSprite x y n => Sys2Proof.Machine.execDrawSprite x y n s
  | .skipIfKeyPressed x => Sys2Proof.Machine.execSkipIfKeyPressed x s
  | .skipIfKeyNotPressed x => Sys2Proof.Machine.execSkipIfKeyNotPressed x s
  | .getDelayTimer x => Sys2Proof.Machine.execGetDelayTimer x s
  | .awaitKeyThenStore x => Sys2Proof.Machine.execAwaitKeyThenStore x s
  | .setDelayTimer x => Sys2Proof.Machine.execSetDelayTimer x s
  | .setSoundTimer x => Sys2Proof.Machine.execSetSoundTimer x s
  | .addIndexReg x => Sys2Proof.Machine.execAddIndexReg x s
  | .setIndexToSpriteGlyph x => Sys2Proof.Machine.execSetIndexToSpriteGlyph x s
  | .storeBCD x => Sys2Proof.Machine.execStoreBCD x s
  | .dumpRegistersToMemory x => Sys2Proof.Machine.execDumpRegistersToMemory x s
  | .loadRegistersFromMemory x => Sys2Proof.Machine.execLoadRegistersFromMemory x s

end Sys2Proof.Machine
end

