-- ==== Sys2Proof/WellFormed.lean ====
section
/-! DEFINITION. Which terms of `Instr` are instructions of the core. Field widths are in the types; the one
instruction whose fields the encoding restricts is CallMachineRoutine (30_encoding.md R76). -/

namespace Sys2Proof

/-- The address a CallMachineRoutine word can carry (R76): w2 ≥ 2, and under the `literal` reading a low byte
other than E0 and EE, since those words are ClearDisplay and ReturnFromSubroutine. -/
def machineRoutineAddrOk (z : ZeroGroupDecode) (nnn : Addr) : Bool :=
  decide (0x200 ≤ nnn.toNat) &&
    match z with
    | .literal => decide (nnn.toNat % 256 ≠ 0xE0) && decide (nnn.toNat % 256 ≠ 0xEE)
    | .strict => true

/-- Whether an instruction is one the decoder can give under the reading `z` of group 0. -/
def Instr.wellFormed (z : ZeroGroupDecode) : Instr → Bool
  | .clearDisplay => true
  | .returnFromSubroutine => true
  | .callMachineRoutine nnn => machineRoutineAddrOk z nnn
  | .jump _ => true
  | .callSubroutine _ => true
  | .skipIfRegEqualsConst _ _ => true
  | .skipIfRegNotEqualsConst _ _ => true
  | .skipIfRegEqualsReg _ _ => true
  | .setRegConst _ _ => true
  | .addConstNoFlag _ _ => true
  | .setRegReg _ _ => true
  | .orReg _ _ => true
  | .andReg _ _ => true
  | .xorReg _ _ => true
  | .addReg _ _ => true
  | .subReg _ _ => true
  | .shiftRight _ _ => true
  | .subRegReversed _ _ => true
  | .shiftLeft _ _ => true
  | .skipIfRegNotEqualsReg _ _ => true
  | .setIndexConst _ => true
  | .jumpIndexed _ => true
  | .randomMasked _ _ => true
  | .drawSprite _ _ _ => true
  | .skipIfKeyPressed _ => true
  | .skipIfKeyNotPressed _ => true
  | .getDelayTimer _ => true
  | .awaitKeyThenStore _ => true
  | .setDelayTimer _ => true
  | .setSoundTimer _ => true
  | .addIndexReg _ => true
  | .setIndexToSpriteGlyph _ => true
  | .storeBCD _ => true
  | .dumpRegistersToMemory _ => true
  | .loadRegistersFromMemory _ => true

end Sys2Proof
end

