-- ==== Sys2Proof/Decode.lean ====
section
/-! DEFINITION. The decoder (30_encoding.md R75 to R82), total on all 65536 words and refusing by name, and after it
the encoder, written from the same encodings (R84). -/

namespace Sys2Proof

/-- Why a word is no instruction: the group (top nibble) in which no pattern matches (R76 to R82). Raised by
`decode` only. Safe: the spec refuses these words at load. -/
inductive IllegalWord where
  /-- w1 = 0, w2 < 2 and no ClearDisplay or ReturnFromSubroutine word (R76). -/
  | group0
  /-- 5XYn with n ≠ 0 (R77). -/
  | group5
  /-- 8XYn with n in 8, 9, A, B, C, D, F (R78). -/
  | group8
  /-- 9XYn with n ≠ 0 (R79). -/
  | group9
  /-- w1 = E and a low byte other than 9E, A1 (R80). -/
  | groupE
  /-- w1 = F and a low byte other than the nine of R81. -/
  | groupF
deriving DecidableEq, Repr

/-! ### Fields of a word (R70, R71) -/

/-- `w1 = word[15:12]`, the group of the instruction. -/
def fieldGroup (w : Word) : BitVec 4 := w.extractLsb' 12 4

/-- `x = word[11:8] = w2`. -/
def fieldX (w : Word) : RegIdx := (w.extractLsb' 8 4).toFin

/-- `y = word[7:4] = w3`. -/
def fieldY (w : Word) : RegIdx := (w.extractLsb' 4 4).toFin

/-- `n = word[3:0] = w4`. -/
def fieldN (w : Word) : BitVec 4 := w.extractLsb' 0 4

/-- `kk = word[7:0]`. -/
def fieldKK (w : Word) : Byte := w.extractLsb' 0 8

/-- `nnn = word[11:0]`. -/
def fieldNNN (w : Word) : Addr := w.extractLsb' 0 12

/-! ### The decoder -/

/-- Group w1 = 0 (R76): the tests in the order the spec applies them. -/
def decodeGroup0 (z : ZeroGroupDecode) (w : Word) : Except IllegalWord Instr :=
  let clears : Bool := match z with
    | .literal => fieldKK w == 0xE0#8
    | .strict => w == 0x00E0#16
  let returns : Bool := match z with
    | .literal => fieldKK w == 0xEE#8
    | .strict => w == 0x00EE#16
  if clears then .ok .clearDisplay
  else if returns then .ok .returnFromSubroutine
  else if 2 ≤ (fieldX w).val then .ok (.callMachineRoutine (fieldNNN w))
  else .error .group0

/-- Group w1 = 5 (R77): w4 must be 0. -/
def decodeGroup5 (w : Word) : Except IllegalWord Instr :=
  if fieldN w = 0#4 then .ok (.skipIfRegEqualsReg (fieldX w) (fieldY w)) else .error .group5

/-- Group w1 = 8, "selected by `w4`" (R78). -/
def decodeGroup8 (w : Word) : Except IllegalWord Instr :=
  match (fieldN w).toNat with
  | 0x0 => .ok (.setRegReg (fieldX w) (fieldY w))
  | 0x1 => .ok (.orReg (fieldX w) (fieldY w))
  | 0x2 => .ok (.andReg (fieldX w) (fieldY w))
  | 0x3 => .ok (.xorReg (fieldX w) (fieldY w))
  | 0x4 => .ok (.addReg (fieldX w) (fieldY w))
  | 0x5 => .ok (.subReg (fieldX w) (fieldY w))
  | 0x6 => .ok (.shiftRight (fieldX w) (fieldY w))
  | 0x7 => .ok (.subRegReversed (fieldX w) (fieldY w))
  | 0xE => .ok (.shiftLeft (fieldX w) (fieldY w))
  | _ => .error .group8

/-- Group w1 = 9 (R79): w4 must be 0. -/
def decodeGroup9 (w : Word) : Except IllegalWord Instr :=
  if fieldN w = 0#4 then .ok (.skipIfRegNotEqualsReg (fieldX w) (fieldY w)) else .error .group9

/-- Group w1 = E, selected by the low byte (R80). -/
def decodeGroupE (w : Word) : Except IllegalWord Instr :=
  match (fieldKK w).toNat with
  | 0x9E => .ok (.skipIfKeyPressed (fieldX w))
  | 0xA1 => .ok (.skipIfKeyNotPressed (fieldX w))
  | _ => .error .groupE

/-- Group w1 = F, selected by the low byte (R81). -/
def decodeGroupF (w : Word) : Except IllegalWord Instr :=
  match (fieldKK w).toNat with
  | 0x07 => .ok (.getDelayTimer (fieldX w))
  | 0x0A => .ok (.awaitKeyThenStore (fieldX w))
  | 0x15 => .ok (.setDelayTimer (fieldX w))
  | 0x18 => .ok (.setSoundTimer (fieldX w))
  | 0x1E => .ok (.addIndexReg (fieldX w))
  | 0x29 => .ok (.setIndexToSpriteGlyph (fieldX w))
  | 0x33 => .ok (.storeBCD (fieldX w))
  | 0x55 => .ok (.dumpRegistersToMemory (fieldX w))
  | 0x65 => .ok (.loadRegistersFromMemory (fieldX w))
  | _ => .error .groupF

/-- `decode` (R75): "Dispatch selects primarily on the top nibble `w1`". -/
def decode (z : ZeroGroupDecode) (w : Word) : Except IllegalWord Instr :=
  match (fieldGroup w).toNat with
  | 0x0 => decodeGroup0 z w
  | 0x1 => .ok (.jump (fieldNNN w))
  | 0x2 => .ok (.callSubroutine (fieldNNN w))
  | 0x3 => .ok (.skipIfRegEqualsConst (fieldX w) (fieldKK w))
  | 0x4 => .ok (.skipIfRegNotEqualsConst (fieldX w) (fieldKK w))
  | 0x5 => decodeGroup5 w
  | 0x6 => .ok (.setRegConst (fieldX w) (fieldKK w))
  | 0x7 => .ok (.addConstNoFlag (fieldX w) (fieldKK w))
  | 0x8 => decodeGroup8 w
  | 0x9 => decodeGroup9 w
  | 0xA => .ok (.setIndexConst (fieldNNN w))
  | 0xB => .ok (.jumpIndexed (fieldNNN w))
  | 0xC => .ok (.randomMasked (fieldX w) (fieldKK w))
  | 0xD => .ok (.drawSprite (fieldX w) (fieldY w) (fieldN w))
  | 0xE => decodeGroupE w
  | _ => decodeGroupF w

/-! ### The encoder (R84) -/

/-- A word of the Address shape: the group and `nnn`. -/
def packAddress (g : BitVec 4) (nnn : Addr) : Word := g ++ nnn

/-- A word of the RegConst shape, and of the Reg shape with its fixed low byte: the group, `x`, the low byte. -/
def packRegByte (g : BitVec 4) (x : RegIdx) (kk : Byte) : Word := g ++ (BitVec.ofFin x : BitVec 4) ++ kk

/-- A word of the RegReg shape with its fixed w4, and of the RegRegNibble shape: the group, `x`, `y`, w4. -/
def packRegReg (g : BitVec 4) (x y : RegIdx) (n : BitVec 4) : Word :=
  g ++ (BitVec.ofFin x : BitVec 4) ++ (BitVec.ofFin y : BitVec 4) ++ n

/-- The word of an instruction. ClearDisplay and ReturnFromSubroutine get the spelling with w2 = 0, which both
readings of group 0 share. -/
def encode : Instr → Word
  | .clearDisplay => 0x00E0#16
  | .returnFromSubroutine => 0x00EE#16
  | .callMachineRoutine nnn => packAddress 0x0#4 nnn
  | .jump nnn => packAddress 0x1#4 nnn
  | .callSubroutine nnn => packAddress 0x2#4 nnn
  | .skipIfRegEqualsConst x kk => packRegByte 0x3#4 x kk
  | .skipIfRegNotEqualsConst x kk => packRegByte 0x4#4 x kk
  | .skipIfRegEqualsReg x y => packRegReg 0x5#4 x y 0x0#4
  | .setRegConst x kk => packRegByte 0x6#4 x kk
  | .addConstNoFlag x kk => packRegByte 0x7#4 x kk
  | .setRegReg x y => packRegReg 0x8#4 x y 0x0#4
  | .orReg x y => packRegReg 0x8#4 x y 0x1#4
  | .andReg x y => packRegReg 0x8#4 x y 0x2#4
  | .xorReg x y => packRegReg 0x8#4 x y 0x3#4
  | .addReg x y => packRegReg 0x8#4 x y 0x4#4
  | .subReg x y => packRegReg 0x8#4 x y 0x5#4
  | .shiftRight x y => packRegReg 0x8#4 x y 0x6#4
  | .subRegReversed x y => packRegReg 0x8#4 x y 0x7#4
  | .shiftLeft x y => packRegReg 0x8#4 x y 0xE#4
  | .skipIfRegNotEqualsReg x y => packRegReg 0x9#4 x y 0x0#4
  | .setIndexConst nnn => packAddress 0xA#4 nnn
  | .jumpIndexed nnn => packAddress 0xB#4 nnn
  | .randomMasked x kk => packRegByte 0xC#4 x kk
  | .drawSprite x y n => packRegReg 0xD#4 x y n
  | .skipIfKeyPressed x => packRegByte 0xE#4 x 0x9E#8
  | .skipIfKeyNotPressed x => packRegByte 0xE#4 x 0xA1#8
  | .getDelayTimer x => packRegByte 0xF#4 x 0x07#8
  | .awaitKeyThenStore x => packRegByte 0xF#4 x 0x0A#8
  | .setDelayTimer x => packRegByte 0xF#4 x 0x15#8
  | .setSoundTimer x => packRegByte 0xF#4 x 0x18#8
  | .addIndexReg x => packRegByte 0xF#4 x 0x1E#8
  | .setIndexToSpriteGlyph x => packRegByte 0xF#4 x 0x29#8
  | .storeBCD x => packRegByte 0xF#4 x 0x33#8
  | .dumpRegistersToMemory x => packRegByte 0xF#4 x 0x55#8
  | .loadRegistersFromMemory x => packRegByte 0xF#4 x 0x65#8

/-! ### The numbering of spec/opcode_table.json -/

/-- The word whose bits spec/opcode_table.json numbers as `w` in a row of `nbits` bits: bit 0 is the least
significant bit of the one 16-bit word, and the bits above `nbits` are 0 (R70, R88: every instruction is one
word). `none` where a bit above 15 is set. -/
def tableWord (nbits w : Nat) : Option Word :=
  if w % 2 ^ nbits < 0x10000 then some (BitVec.ofNat 16 (w % 2 ^ nbits)) else none

/-- The instruction the decoder reads from an opcode-table word, under the spec's default reading of group 0
(`literal`, decision D11; log entry 3). -/
def decodeTableWord (nbits w : Nat) : Option Instr :=
  match tableWord nbits w with
  | none => none
  | some word =>
    match decode .literal word with
    | .ok i => some i
    | .error _ => none

end Sys2Proof
end

