-- ==== Sys2Proof/Machine/Load.lean ====
section
/-! DEFINITION. Creating a machine (70_reset_and_hazards.md R300): every word is decoded at load, and the first bad
line refuses the program (60_exceptions.md R271). Also the program text of 30_encoding.md R85. -/

namespace Sys2Proof.Machine

/-- A load-time error, with the index of the first bad line, counted from 0, and its text or word (R271,
decision D29). Never the result of a cycle. -/
inductive DecodeError where
  /-- A line of the wrong length or with a character that is no hex digit (R85). -/
  | malformedLine (line : Nat) (text : List Char)
  /-- A word that is no instruction (R82), and the group that refuses it. -/
  | illegalWord (line : Nat) (word : Word) (reason : IllegalWord)
deriving DecidableEq, Repr

/-- `P[k] <- decode(PROGRAM[k])` from line `k` on (R300). -/
def decodeProgram (z : ZeroGroupDecode) : Nat → List Word → Except DecodeError (List Decoded)
  | _, [] => .ok []
  | k, w :: rest =>
    match decode z w with
    | .error e => .error (.illegalWord k w e)
    | .ok i =>
      match decodeProgram z (k + 1) rest with
      | .error e => .error e
      | .ok ds => .ok ({ instr := i, word := w } :: ds)

/-- The state at creation with a given instruction store, seed and parameters (10_state.md R36). -/
def createdState (p : Params) (ds : List Decoded) (prngInit : BitVec 64) : State :=
  { State.reset with program := ds, rng := prngInit, params := p }

/-- `create(PROGRAM, PRNG_INIT)` (R300), with the parameters of R9. -/
def create (p : Params) (prog : List Word) (prngInit : BitVec 64) : Except DecodeError State :=
  match decodeProgram p.zeroGroupDecode 0 prog with
  | .error e => .error e
  | .ok ds => .ok (createdState p ds prngInit)

/-- The value of a case-insensitive hexadecimal character (R85). -/
def hexDigit (c : Char) : Option Nat :=
  if 48 ≤ c.toNat ∧ c.toNat ≤ 57 then some (c.toNat - 48)
  else if 65 ≤ c.toNat ∧ c.toNat ≤ 70 then some (c.toNat - 55)
  else if 97 ≤ c.toNat ∧ c.toNat ≤ 102 then some (c.toNat - 87)
  else none

/-- One line of program text (R85): exactly four hex characters, w1 first. -/
def parseLine (text : List Char) : Option Word :=
  match text with
  | [c1, c2, c3, c4] =>
    match hexDigit c1, hexDigit c2, hexDigit c3, hexDigit c4 with
    | some d1, some d2, some d3, some d4 => some (BitVec.ofNat 16 (4096 * d1 + 256 * d2 + 16 * d3 + d4))
    | _, _, _, _ => none
  | _ => none

/-- Parse and decode the lines in order from line `k` on; the first bad line is the error (R271). -/
def decodeLines (z : ZeroGroupDecode) : Nat → List (List Char) → Except DecodeError (List Decoded)
  | _, [] => .ok []
  | k, t :: rest =>
    match parseLine t with
    | none => .error (.malformedLine k t)
    | some w =>
      match decode z w with
      | .error e => .error (.illegalWord k w e)
      | .ok i =>
        match decodeLines z (k + 1) rest with
        | .error e => .error e
        | .ok ds => .ok ({ instr := i, word := w } :: ds)

/-- Creation from program text. -/
def createFromText (p : Params) (lines : List (List Char)) (prngInit : BitVec 64) : Except DecodeError State :=
  match decodeLines p.zeroGroupDecode 0 lines with
  | .error e => .error e
  | .ok ds => .ok (createdState p ds prngInit)

/-- An instruction store with entry `d` at index `k`; a store too short for it is filled up with `d`. -/
def placeAt (d : Decoded) : Nat → List Decoded → List Decoded
  | 0, [] => [d]
  | 0, _ :: rest => d :: rest
  | k + 1, [] => d :: placeAt d k []
  | k + 1, e :: rest => e :: placeAt d k rest

/-- The state with a word loaded where the next cycle fetches, and running, so that the cycle runs it. A word
that is no instruction cannot stand in the store (R271): the state is as it was. (log entry 8) -/
def State.placeWord (s : State) (nbits w : Nat) : State :=
  match tableWord nbits w with
  | none => s
  | some word =>
    match decode s.params.zeroGroupDecode word with
    | .error _ => s
    | .ok i => { s with program := placeAt { instr := i, word := word } s.pc s.program, status := .running }

end Sys2Proof.Machine
end

