-- ==== Sys2Proof/Machine/Step.lean ====
section
/-! DEFINITION. The core's step: one call of `cycle()` (40_cycle.md R110). -/

namespace Sys2Proof.Machine

/-- `cycle()`: the state it leaves and the result it returns (R119, R120). -/
def cycle (s : State) : CycleAnswer := cycleWith exec s

/-- One step of the machine: the state `cycle()` leaves, or the fault of a core that is already faulted. -/
def step (s : State) : Host.Outcome State Fault Refusal := stepWith exec s

/-- The state with an instruction, numbered as spec/opcode_table.json numbers it, loaded where the next step
fetches (log entry 8). -/
def State.withFetchWord (s : State) (nbits w : Nat) : State := s.placeWord nbits w

end Sys2Proof.Machine
end

