-- ==== Sys2Proof/Safety.lean ====
section
/-! DEFINITION. The terms the claims use: the three conditions of the core (40_cycle.md R122), the invariant of its
states, frames, and the pixels a sprite covers. -/

namespace Sys2Proof.Machine

/-! ### The three conditions of the core (R122) -/

/-- Running: the next cycle executes an instruction. -/
def State.Live (s : State) : Prop := s.status = .running ∧ s.pc < s.program.length

/-- Halted: "`pc` beyond the instruction sequence". -/
def State.Halted (s : State) : Prop := s.status = .running ∧ s.program.length ≤ s.pc

/-- Faulted; a safe run never gets here. -/
def State.Faulted (s : State) : Prop := ∃ k, s.status = .faulted k

/-! ### The invariant -/

/-- What holds of every state of a created machine, and every step keeps. -/
structure State.Inv (s : State) : Prop where
  /-- The data memory is in canonical form, all listed addresses below 4096 (R50). -/
  memCanonical : Memory.wf s.mem = true
  /-- "stack depth never exceeds 48" (R27). -/
  stackDepth : s.stack.length ≤ 48
  /-- Every stack entry is the index after a call, so at most N (R24, R131). -/
  stackEntries : ∀ p ∈ s.stack, 1 ≤ p ∧ p ≤ s.program.length
  /-- The largest values an instruction can write to pc (R24). -/
  pcBound : s.pc ≤ max 0x10FE (s.program.length + 1)
  /-- "every entry of `P` was decoded at load" (R114). -/
  programDecoded : ∀ d ∈ s.program, decode s.params.zeroGroupDecode d.word = .ok d.instr
  /-- MemoryBounds occurs only under `MEM_ADDR_OVERFLOW = fault`, for an address past 0xFFF (R32, R52). -/
  boundsFault : ∀ a, s.status = .faulted (.memoryBounds a) →
    s.params.memAddrOverflow = .fault ∧ 0xFFF < a ∧ a ≤ 0x100E
  /-- A faulted core has no changed frame to show (R273). -/
  faultedFrame : ∀ k, s.status = .faulted k → s.frameChanged = false

/-! ### Frames -/

/-- Nothing but registers changed: every other component of the state is as before. -/
def OnlyRegs (s t : State) : Prop := t = { s with v := t.v }

/-- Nothing but the pc changed. -/
def OnlyPc (s t : State) : Prop := t = { s with pc := t.pc }

/-- Nothing but the pc and the call stack changed. -/
def OnlyPcStack (s t : State) : Prop := t = { s with pc := t.pc, stack := t.stack }

/-- Nothing but I changed. -/
def OnlyIndex (s t : State) : Prop := t = { s with i := t.i }

/-- Nothing but data memory changed. -/
def OnlyMem (s t : State) : Prop := t = { s with mem := t.mem }

/-- Every register outside the list is unchanged. -/
def RegsSameExcept (changed : List RegIdx) (s t : State) : Prop := ∀ r, r ∉ changed → t.getV r = s.getV r

/-- Every byte of data memory reads as before. -/
def MemSame (s t : State) : Prop := ∀ a, t.mem.read a = s.mem.read a

/-! ### Memory addresses and sprites -/

/-- The address of the byte at offset `k` from I in state `s`, where the access is allowed (R52). -/
def State.ea (s : State) (k : Nat) : Except Fault Addr := effectiveAddr s.params.memAddrOverflow s.i k

/-- Whether an instruction that touches `n` bytes from I on stays inside data memory or wraps: the condition
under which it raises no MemoryBounds (R52, R53). -/
def State.CanTouch (s : State) (n : Nat) : Prop :=
  s.params.memAddrOverflow = .wrap ∨ s.i.toNat + n ≤ 4096

/-- Pixel (c, r) is one that `DXYN` flips in state `s` (R242): some bit of some sprite byte falls on it, the most
significant bit at column 0, both coordinates reduced. -/
def State.SpritePixel (s : State) (x y : RegIdx) (n : BitVec 4) (c : Fin 64) (r : Fin 32) : Prop :=
  ∃ row col : Nat, row < n.toNat ∧ col < 8 ∧
    c.val = ((s.getV x).toNat + col) % 64 ∧ r.val = ((s.getV y).toNat + row) % 32 ∧
    ∃ a, s.ea row = .ok a ∧ (s.mem.read a).getLsbD (7 - col) = true

end Sys2Proof.Machine
end

