-- ==== Sys2Proof/Certificates/Slice0/Obligations.lean ====
section
/-! DEFINITION. The statements about the core, each with the rules of spec/ it formalises. A statement of the kind
"derived" that rests on one of the spec's own decisions (92_eei_decisions.md) names it, and the log entry. -/

open Sys2Proof Sys2Proof.Machine

/-! ### Helpers of the statements -/

/-- The field `nnn` of a word as a number: its low 12 bits (R71). -/
def Sys2Proof.Word.nnnOf (w : Word) : Addr := BitVec.ofNat 12 (w.toNat % 4096)

/-- The field `x` of a word as a number: bits 11 to 8 (R71). -/
def Sys2Proof.Word.xOf (w : Word) : RegIdx := Fin.ofNat 16 (w.toNat / 256 % 16)

/-- The field `y` of a word as a number: bits 7 to 4 (R71). -/
def Sys2Proof.Word.yOf (w : Word) : RegIdx := Fin.ofNat 16 (w.toNat / 16 % 16)

/-- The field `kk` of a word as a number: its low byte (R71). -/
def Sys2Proof.Word.kkOf (w : Word) : Byte := BitVec.ofNat 8 (w.toNat % 256)

/-- The instructions that write VF as a flag (R21). -/
def Sys2Proof.Instr.producesFlag : Instr → Bool
  | .addReg _ _ | .subReg _ _ | .shiftRight _ _ | .subRegReversed _ _ | .shiftLeft _ _ | .drawSprite _ _ _ => true
  | _ => false

/-- The one destination register `V[x]` of an instruction that has one (R22). -/
def Sys2Proof.Instr.destination : Instr → Option RegIdx
  | .setRegConst x _ | .addConstNoFlag x _ | .setRegReg x _ | .orReg x _ | .andReg x _ | .xorReg x _
  | .addReg x _ | .subReg x _ | .shiftRight x _ | .subRegReversed x _ | .shiftLeft x _
  | .randomMasked x _ | .getDelayTimer x => some x
  | _ => none

/-- How many bytes of data memory from I on an instruction touches (R57). -/
def Sys2Proof.Instr.touches : Instr → Nat
  | .storeBCD _ => 3
  | .dumpRegistersToMemory x | .loadRegistersFromMemory x => x.val + 1
  | .drawSprite _ _ n => n.toNat
  | _ => 0

/-- The instruction that raises NotImplemented with a given identity (R261 to R265). -/
def Sys2Proof.Machine.Unimplemented.isRaisedBy : Unimplemented → Instr → Prop
  | .callMachineRoutine, i => ∃ nnn, i = .callMachineRoutine nnn
  | .skipIfKeyPressed, i => ∃ x, i = .skipIfKeyPressed x
  | .skipIfKeyNotPressed, i => ∃ x, i = .skipIfKeyNotPressed x
  | .awaitKeyThenStore, i => ∃ x, i = .awaitKeyThenStore x
  | .setIndexToSpriteGlyph, i => ∃ x, i = .setIndexToSpriteGlyph x

/-- Every word with the given value under the mask decodes, under both readings of group 0, to the instruction that
`f` reads from its fields: the "Encoding" line of an instruction's rule. -/
def Sys2Proof.EncodedBy (mask value : Word) (f : Word → Instr) : Prop :=
  ∀ (z : ZeroGroupDecode) (w : Word), w &&& mask = value → decode z w = .ok (f w)

/-! ### Reset and creation -/

/-- The state at creation of an empty program (R36). The values of pc, I, stack, timers, framebuffer, frame flag
and status are the spec's decision D2 (log entry 4); `rng` is the free value PRNG_INIT (log entry 5); the two
parameters (R9) have the spec's defaults: `literal` is decision D11 (log entry 3), `wrap` decision D3 (log entry 2). -/
def Obligations.ResetStateValues : Prop :=
  (∀ x, State.reset.getV x = 0) ∧ (∀ a, State.reset.mem.read a = 0) ∧ State.reset.program = [] ∧
  State.reset.pc = 0 ∧ State.reset.i = 0 ∧ State.reset.stack = [] ∧ State.reset.dt = 0 ∧ State.reset.st = 0 ∧
  (∀ c r, State.reset.fb.get c r = false) ∧ State.reset.frameChanged = false ∧
  State.reset.rng = Config.prngInit ∧ State.reset.status = .running ∧
  State.reset.params = { zeroGroupDecode := .literal, memAddrOverflow := .wrap }

/-- The invariant holds after reset. -/
def Obligations.ResetMeetsInvariant : Prop := State.reset.Inv

/-- Every step keeps the invariant: canonical memory, at most 48 stack entries, each at most N, the bound of R24
on the pc, every store entry decoded from its word, MemoryBounds only under its parameter. -/
def Obligations.StepKeepsInvariant : Prop :=
  ∀ s t : State, s.Inv → step s = .next t → t.Inv

/-- Creation (R300): a program all of whose words decode gives a machine that holds them in line order, with
every other element at its value at creation, and meets the invariant. -/
def Obligations.CreationDecodesEveryWord : Prop :=
  ∀ (p : Params) (prog : List Word) (seed : BitVec 64),
    (∀ w ∈ prog, ∃ i, decode p.zeroGroupDecode w = .ok i) →
    ∃ s, create p prog seed = .ok s ∧ s.program.map Decoded.word = prog ∧
      (∀ d ∈ s.program, decode p.zeroGroupDecode d.word = .ok d.instr) ∧
      s = { State.reset with program := s.program, rng := seed, params := p } ∧ s.Inv

/-- Creation refuses a program with the first word that is no instruction, and with nothing else (R271, R300;
the first bad line and its number from 0 are decision D29, log entry 20). -/
def Obligations.CreationRefusesFirstIllegalWord : Prop :=
  ∀ (p : Params) (prog : List Word) (seed : BitVec 64),
    (∀ k w e, create p prog seed = .error (.illegalWord k w e) ↔
      (prog[k]? = some w ∧ decode p.zeroGroupDecode w = .error e ∧
        ∀ j, j < k → ∀ v, prog[j]? = some v → ∃ i, decode p.zeroGroupDecode v = .ok i)) ∧
    (∀ k text, create p prog seed ≠ .error (.malformedLine k text))

/-- Program text (R85): a character is a hex digit exactly when it is one of 0-9, A-F and a-f, with the value it
names; a line is accepted exactly when it is four hex characters, in either case, and its word has them as its
nibbles, the first the most significant. -/
def Obligations.TextLineIsFourHexDigits : Prop :=
  ['0', '1', '2', '3', '4', '5', '6', '7', '8', '9', 'A', 'B', 'C', 'D', 'E', 'F'].map hexDigit
      = (List.range 16).map some ∧
  ['a', 'b', 'c', 'd', 'e', 'f'].map hexDigit = [10, 11, 12, 13, 14, 15].map some ∧
  (∀ c d, hexDigit c = some d → d < 16) ∧
  (∀ c, (hexDigit c).isSome = true →
    c ∈ ['0', '1', '2', '3', '4', '5', '6', '7', '8', '9', 'A', 'B', 'C', 'D', 'E', 'F',
      'a', 'b', 'c', 'd', 'e', 'f']) ∧
  (∀ text, (parseLine text).isSome = true ↔ text.length = 4 ∧ ∀ c ∈ text, (hexDigit c).isSome = true) ∧
  (∀ c1 c2 c3 c4 d1 d2 d3 d4, hexDigit c1 = some d1 → hexDigit c2 = some d2 → hexDigit c3 = some d3 →
    hexDigit c4 = some d4 →
    ∃ w, parseLine [c1, c2, c3, c4] = some w ∧ w.toNat = 4096 * d1 + 256 * d2 + 16 * d3 + d4)

/-- Creation from program text (R85, R271, R300): it succeeds exactly on the lines of a word list on which creation
succeeds, with the same machine; the first bad line is the error, with its number from 0: its text if it is not four
hex characters, its word and the group that refuses it if the word is no instruction (decision D29, log entry 20). -/
def Obligations.TextCreatesItsWords : Prop :=
  ∀ (p : Params) (lines : List (List Char)) (seed : BitVec 64),
    (∀ s, createFromText p lines seed = .ok s ↔
      ∃ prog : List Word, lines.map parseLine = prog.map some ∧ create p prog seed = .ok s) ∧
    (∀ k text, createFromText p lines seed = .error (.malformedLine k text) ↔
      (lines[k]? = some text ∧ parseLine text = none ∧
        ∀ j, j < k → ∃ w i, lines[j]?.bind parseLine = some w ∧ decode p.zeroGroupDecode w = .ok i)) ∧
    (∀ k w e, createFromText p lines seed = .error (.illegalWord k w e) ↔
      (lines[k]?.bind parseLine = some w ∧ decode p.zeroGroupDecode w = .error e ∧
        ∀ j, j < k → ∃ v i, lines[j]?.bind parseLine = some v ∧ decode p.zeroGroupDecode v = .ok i))

/-! ### Encoding -/

/-- The words the source decodes by hand (95_test_vectors.md 1.1). -/
def Obligations.SourceExampleWordsDecode : Prop :=
  ∀ z, decode z 0x00E0#16 = .ok .clearDisplay ∧ decode z 0x00EE#16 = .ok .returnFromSubroutine ∧
    decode z 0x1ABC#16 = .ok (.jump 0xABC#12) ∧ decode z 0x6A12#16 = .ok (.setRegConst 0xA 0x12#8) ∧
    decode z 0x8AB4#16 = .ok (.addReg 0xA 0xB) ∧ decode z 0xDAB4#16 = .ok (.drawSprite 0xA 0xB 4#4) ∧
    decode z 0xF355#16 = .ok (.dumpRegistersToMemory 3) ∧ decode z 0x0FFF#16 = .ok (.callMachineRoutine 0xFFF#12)

/-- Decoding the word of a well-formed instruction gives it back, with every operand, under both readings of
group 0. -/
def Obligations.EncodedInstructionsDecode : Prop :=
  ∀ (z : ZeroGroupDecode) (i : Instr), i.wellFormed z = true → decode z (encode i) = .ok i

/-- Every word that decodes gives a well-formed instruction whose word it is; only the ignored nibble w2 of the
`literal` reading's ClearDisplay and ReturnFromSubroutine words is lost (R76, decision D11, log entry 3). -/
def Obligations.DecodedWordsReencode : Prop :=
  ∀ (z : ZeroGroupDecode) (w : Word) (i : Instr), decode z w = .ok i →
    i.wellFormed z = true ∧
    (encode i = w ∨
      (z = .literal ∧ (i = .clearDisplay ∨ i = .returnFromSubroutine) ∧ w.toNat / 4096 = 0 ∧
        (encode i).toNat = w.toNat % 256))

/-- The two readings of group 0 differ exactly on the words 0x0cE0 and 0x0cEE with c ≠ 0 (R76, decision D11). -/
def Obligations.ZeroGroupReadingsDiffer : Prop :=
  ∀ w : Word, decode .literal w ≠ decode .strict w ↔
    (w.toNat / 4096 = 0 ∧ w.toNat / 256 % 16 ≠ 0 ∧ (w.toNat % 256 = 0xE0 ∨ w.toNat % 256 = 0xEE))

/-- Group w1 = 0 under each reading (R76; which reading is the core's is decision D11, log entry 3). -/
def Obligations.GroupZeroDecodes : Prop :=
  ∀ w : Word, w.toNat / 4096 = 0 →
    (w.toNat % 256 = 0xE0 → decode .literal w = .ok .clearDisplay) ∧
    (w.toNat % 256 = 0xEE → decode .literal w = .ok .returnFromSubroutine) ∧
    (w.toNat = 0x00E0 → decode .strict w = .ok .clearDisplay) ∧
    (w.toNat = 0x00EE → decode .strict w = .ok .returnFromSubroutine) ∧
    (w.toNat % 256 ≠ 0xE0 → w.toNat % 256 ≠ 0xEE →
      decode .literal w = if 2 ≤ w.toNat / 256 then .ok (.callMachineRoutine w.nnnOf) else .error .group0) ∧
    (w.toNat ≠ 0x00E0 → w.toNat ≠ 0x00EE →
      decode .strict w = if 2 ≤ w.toNat / 256 then .ok (.callMachineRoutine w.nnnOf) else .error .group0)

/-- Groups w1 = 1 to 7 (R77). -/
def Obligations.GroupsOneToSevenDecode : Prop :=
  ∀ (z : ZeroGroupDecode) (w : Word),
    (w.toNat / 4096 = 1 → decode z w = .ok (.jump w.nnnOf)) ∧
    (w.toNat / 4096 = 2 → decode z w = .ok (.callSubroutine w.nnnOf)) ∧
    (w.toNat / 4096 = 3 → decode z w = .ok (.skipIfRegEqualsConst w.xOf w.kkOf)) ∧
    (w.toNat / 4096 = 4 → decode z w = .ok (.skipIfRegNotEqualsConst w.xOf w.kkOf)) ∧
    (w.toNat / 4096 = 5 → w.toNat % 16 = 0 → decode z w = .ok (.skipIfRegEqualsReg w.xOf w.yOf)) ∧
    (w.toNat / 4096 = 5 → w.toNat % 16 ≠ 0 → decode z w = .error .group5) ∧
    (w.toNat / 4096 = 6 → decode z w = .ok (.setRegConst w.xOf w.kkOf)) ∧
    (w.toNat / 4096 = 7 → decode z w = .ok (.addConstNoFlag w.xOf w.kkOf))

/-- Group w1 = 8, selected by w4 (R78). -/
def Obligations.GroupEightDecodes : Prop :=
  ∀ (z : ZeroGroupDecode) (w : Word), w.toNat / 4096 = 8 →
    (w.toNat % 16 = 0x0 → decode z w = .ok (.setRegReg w.xOf w.yOf)) ∧
    (w.toNat % 16 = 0x1 → decode z w = .ok (.orReg w.xOf w.yOf)) ∧
    (w.toNat % 16 = 0x2 → decode z w = .ok (.andReg w.xOf w.yOf)) ∧
    (w.toNat % 16 = 0x3 → decode z w = .ok (.xorReg w.xOf w.yOf)) ∧
    (w.toNat % 16 = 0x4 → decode z w = .ok (.addReg w.xOf w.yOf)) ∧
    (w.toNat % 16 = 0x5 → decode z w = .ok (.subReg w.xOf w.yOf)) ∧
    (w.toNat % 16 = 0x6 → decode z w = .ok (.shiftRight w.xOf w.yOf)) ∧
    (w.toNat % 16 = 0x7 → decode z w = .ok (.subRegReversed w.xOf w.yOf)) ∧
    (w.toNat % 16 = 0xE → decode z w = .ok (.shiftLeft w.xOf w.yOf)) ∧
    (w.toNat % 16 ∈ [0x8, 0x9, 0xA, 0xB, 0xC, 0xD, 0xF] → decode z w = .error .group8)

/-- Groups w1 = 9 to D (R79). -/
def Obligations.GroupsNineToThirteenDecode : Prop :=
  ∀ (z : ZeroGroupDecode) (w : Word),
    (w.toNat / 4096 = 0x9 → w.toNat % 16 = 0 → decode z w = .ok (.skipIfRegNotEqualsReg w.xOf w.yOf)) ∧
    (w.toNat / 4096 = 0x9 → w.toNat % 16 ≠ 0 → decode z w = .error .group9) ∧
    (w.toNat / 4096 = 0xA → decode z w = .ok (.setIndexConst w.nnnOf)) ∧
    (w.toNat / 4096 = 0xB → decode z w = .ok (.jumpIndexed w.nnnOf)) ∧
    (w.toNat / 4096 = 0xC → decode z w = .ok (.randomMasked w.xOf w.kkOf)) ∧
    (w.toNat / 4096 = 0xD → decode z w = .ok (.drawSprite w.xOf w.yOf (BitVec.ofNat 4 (w.toNat % 16))))

/-- Groups w1 = E and F, selected by the low byte (R80, R81). -/
def Obligations.GroupsFourteenAndFifteenDecode : Prop :=
  ∀ (z : ZeroGroupDecode) (w : Word),
    (w.toNat / 4096 = 0xE →
      (w.toNat % 256 = 0x9E → decode z w = .ok (.skipIfKeyPressed w.xOf)) ∧
      (w.toNat % 256 = 0xA1 → decode z w = .ok (.skipIfKeyNotPressed w.xOf)) ∧
      (w.toNat % 256 ∉ [0x9E, 0xA1] → decode z w = .error .groupE)) ∧
    (w.toNat / 4096 = 0xF →
      (w.toNat % 256 = 0x07 → decode z w = .ok (.getDelayTimer w.xOf)) ∧
      (w.toNat % 256 = 0x0A → decode z w = .ok (.awaitKeyThenStore w.xOf)) ∧
      (w.toNat % 256 = 0x15 → decode z w = .ok (.setDelayTimer w.xOf)) ∧
      (w.toNat % 256 = 0x18 → decode z w = .ok (.setSoundTimer w.xOf)) ∧
      (w.toNat % 256 = 0x1E → decode z w = .ok (.addIndexReg w.xOf)) ∧
      (w.toNat % 256 = 0x29 → decode z w = .ok (.setIndexToSpriteGlyph w.xOf)) ∧
      (w.toNat % 256 = 0x33 → decode z w = .ok (.storeBCD w.xOf)) ∧
      (w.toNat % 256 = 0x55 → decode z w = .ok (.dumpRegistersToMemory w.xOf)) ∧
      (w.toNat % 256 = 0x65 → decode z w = .ok (.loadRegistersFromMemory w.xOf)) ∧
      (w.toNat % 256 ∉ [0x07, 0x0A, 0x15, 0x18, 0x1E, 0x29, 0x33, 0x55, 0x65] → decode z w = .error .groupF))

/-! ### The cycle -/

/-- A step of a running core runs the instruction at the pc in the state with the frame flag cleared and the pc
incremented (R112, R114, R115); if it raised nothing, each timer then loses 1, not below 0 (R117, R223), and if it
raised a fault nothing more happens (R116). -/
def Obligations.StepRunsFetchedInstruction : Prop :=
  ∀ (s : State) (d : Decoded), s.status = .running → s.program[s.pc]? = some d →
    ∃ t, exec d.instr { s with frameChanged := false, pc := s.pc + 1 } = .next t ∧
      (t.status = .running → step s = .next
        { t with dt := BitVec.ofNat 8 (t.dt.toNat - 1), st := BitVec.ofNat 8 (t.st.toNat - 1) }) ∧
      (∀ k, t.status = .faulted k → step s = .next t)

/-- A loaded word is what the next step fetches: `withFetchWord` puts the decoded word at the pc of a running core
and changes nothing else but store entries past the end (log entry 8). -/
def Obligations.PlacedWordIsFetched : Prop :=
  ∀ (s : State) (w : Word) (i : Instr), decode s.params.zeroGroupDecode w = .ok i →
    ∃ ds, s.withFetchWord 16 w.toNat = { s with program := ds, status := .running } ∧
      ds[s.pc]? = some { instr := i, word := w } ∧
      (∀ k, k < s.program.length → k ≠ s.pc → ds[k]? = s.program[k]?)

/-- A cycle at `pc ≥ N` returns Halt, clears the frame flag and changes nothing else (R113; decision D9, log
entry 7). -/
def Obligations.HaltedCycleReturnsHalt : Prop :=
  ∀ s : State, s.status = .running → s.program.length ≤ s.pc →
    cycle s = .next ({ s with frameChanged := false }, .halt) ∧ step s = .next { s with frameChanged := false }

/-- A faulted core is final: a cycle changes nothing and returns the same fault (R111; decision D8), and a step
answers the fault (log entry 6). -/
def Obligations.FaultedCoreIsFinal : Prop :=
  ∀ (s : State) (k : Fault), s.status = .faulted k → cycle s = .next (s, .fault k) ∧ step s = .fault k

/-- What a cycle that ran an instruction returns (R118, R119, R243; the sound bit after the decay is decision D14,
log entry 13): a snapshot of the framebuffer exactly when the instruction was ClearDisplay or a DrawSprite that
completed, and the sound bit; or the fault. -/
def Obligations.CycleReportsFrameAndSound : Prop :=
  ∀ (s t : State) (d : Decoded) (r : CycleResult), s.status = .running → s.program[s.pc]? = some d →
    cycle s = .next (t, r) →
    (t.status = .running → r = .ok (if t.frameChanged = true then some t.fb else none) (decide (0 < t.st.toNat))) ∧
    (∀ k, t.status = .faulted k → r = .fault k) ∧
    (t.frameChanged = true ↔
      d.instr = .clearDisplay ∨ (t.status = .running ∧ ∃ x y n, d.instr = .drawSprite x y n))

/-- Every cycle answers with a state and a result, in every state, and a step of a core that is not faulted leaves
the state its cycle leaves: nothing is refused (R110, R119, R272). -/
def Obligations.EveryCycleAnswers : Prop :=
  ∀ s : State, ∃ t r, cycle s = .next (t, r) ∧ (s.status = .running → step s = .next t)

/-- A raised fault is precise (R273; decision D8, log entry 6): the pc keeps its increment, the frame flag stays
clear, the status becomes faulted, every other component is as before the cycle, and the cycle returns the fault. -/
def Obligations.RaisedFaultIsPrecise : Prop :=
  ∀ (s t : State) (d : Decoded) (k : Fault), s.status = .running → s.program[s.pc]? = some d →
    exec d.instr { s with frameChanged := false, pc := s.pc + 1 } = .next t → t.status = .faulted k →
    t = { s with frameChanged := false, pc := s.pc + 1, status := .faulted k } ∧
    cycle s = .next (t, .fault k) ∧ step s = .next t

/-- Runtime faults are raised by the instructions R270 names, under the conditions it names, and by no others
(R272). MemoryBounds records the first address past 0xFFF (decision D3, log entry 2). -/
def Obligations.FaultsRaisedOnlyWhereNamed : Prop :=
  ∀ (i : Instr) (s : State), s.status = .running → ∃ t, exec i s = .next t ∧
    (t.status = .faulted .stackOverflow ↔ (∃ nnn, i = .callSubroutine nnn) ∧ 48 ≤ s.stack.length) ∧
    (t.status = .faulted .stackUnderflow ↔ i = .returnFromSubroutine ∧ s.stack = []) ∧
    (∀ u : Unimplemented, t.status = .faulted (.notImplemented u) ↔ u.isRaisedBy i) ∧
    (∀ a, t.status = .faulted (.memoryBounds a) ↔
      s.params.memAddrOverflow = .fault ∧ a = 0x1000 ∧ 0x1000 < s.i.toNat + i.touches)

/-- Under `MEM_ADDR_OVERFLOW = fault`, a memory instruction with an address past 0xFFF changes nothing but the
status (R53; decisions D3 and D24, log entries 2 and 17). -/
def Obligations.BoundsFaultChangesNothing : Prop :=
  ∀ (i : Instr) (s : State), s.params.memAddrOverflow = .fault → 0x1000 < s.i.toNat + i.touches →
    exec i s = .next { s with status := .faulted (.memoryBounds 0x1000) }

/-- Each timer loses 1 per cycle that returns Ok, not below 0; a cycle that writes a timer decays the value
written (R221, R222, R223; decisions D6, D8, D9 and D25, log entry 13). -/
def Obligations.TimersDecayOncePerCycle : Prop :=
  ∀ (s t : State) (d : Decoded) (f : Option Framebuffer) (b : Bool), s.status = .running →
    s.program[s.pc]? = some d → cycle s = .next (t, .ok f b) →
    (∀ x, d.instr = .setDelayTimer x → t.dt.toNat = (s.getV x).toNat - 1) ∧
    ((∀ x, d.instr ≠ .setDelayTimer x) → t.dt.toNat = s.dt.toNat - 1) ∧
    (∀ x, d.instr = .setSoundTimer x → t.st.toNat = (s.getV x).toNat - 1) ∧
    ((∀ x, d.instr ≠ .setSoundTimer x) → t.st.toNat = s.st.toNat - 1)

/-! ### Who writes what -/

/-- No instruction writes the instruction store, and data memory does not reach the fetch (R54, R62). -/
def Obligations.StoresNeverReachFetch : Prop :=
  (∀ s t : State, step s = .next t → t.program = s.program) ∧
  (∀ (i : Instr) (s t : State), exec i s = .next t → t.program = s.program ∧ t.params = s.params) ∧
  (∀ (s : State) (m : Memory), State.fetch { s with mem := m } = s.fetch)

/-- Each element of the state is written only by the instructions the spec names: I (R26), the call stack (R27),
the timers (R28), the framebuffer and its flag (R29, R30), the generator (R31), data memory (R50). -/
def Obligations.StateElementsHaveNamedWriters : Prop :=
  ∀ (i : Instr) (s t : State), exec i s = .next t →
    (t.i ≠ s.i → (∃ nnn, i = .setIndexConst nnn) ∨ ∃ x, i = .addIndexReg x) ∧
    (t.stack ≠ s.stack → (∃ nnn, i = .callSubroutine nnn) ∨ i = .returnFromSubroutine) ∧
    (t.dt ≠ s.dt → ∃ x, i = .setDelayTimer x) ∧
    (t.st ≠ s.st → ∃ x, i = .setSoundTimer x) ∧
    (t.fb ≠ s.fb → i = .clearDisplay ∨ ∃ x y n, i = .drawSprite x y n) ∧
    (t.frameChanged ≠ s.frameChanged → i = .clearDisplay ∨ ∃ x y n, i = .drawSprite x y n) ∧
    ((∀ x kk, i ≠ .randomMasked x kk) → t.rng = s.rng) ∧
    (∀ a, t.mem.read a ≠ s.mem.read a → (∃ x, i = .storeBCD x) ∨ ∃ x, i = .dumpRegistersToMemory x)

/-- A register changes only as the destination of the instruction, as one that FX65 loads, or, for VF, as the flag
of a flag-producing instruction (R21, R22); and such an instruction leaves 0 or 1 in VF whenever it completes. For
x = 0xF that VF ends as the flag, not the result, is the spec's decision D5 (R171, log entry 10). -/
def Obligations.RegistersHaveNamedWriters : Prop :=
  ∀ (i : Instr) (s t : State), exec i s = .next t →
    (∀ r, t.getV r ≠ s.getV r → i.destination = some r ∨ (∃ x, i = .loadRegistersFromMemory x ∧ r ≤ x) ∨
      (r = 15 ∧ i.producesFlag = true)) ∧
    (i.producesFlag = true → s.status = .running → t.status = .running → t.getV 15 = 0 ∨ t.getV 15 = 1)

/-- The generator is used by RandomMasked alone (R232, decision D27, log entry 22): a cycle that runs another
instruction, or none, leaves `rng` and does not depend on it, in its state and in its result. -/
def Obligations.GeneratorUnseenByOthers : Prop :=
  ∀ (s t : State) (r : BitVec 64) (res : CycleResult),
    (∀ d x kk, s.program[s.pc]? = some d → d.instr ≠ .randomMasked x kk) →
    cycle s = .next (t, res) →
    t.rng = s.rng ∧ cycle { s with rng := r } = .next ({ t with rng := r }, res)

/-! ### Flow control -/

/-- Jump (R130): its encoding; pc becomes nnn; nothing else changes; any target is legal, and one past the end halts
at the next cycle. -/
def Obligations.JumpSetsPc : Prop :=
  EncodedBy 0xF000 0x1000 (fun w => .jump w.nnnOf) ∧
  ∀ (nnn : Addr) (s : State), ∃ t, exec (.jump nnn) s = .next t ∧ OnlyPc s t ∧ MemSame s t ∧ t.pc = nnn.toNat ∧
    (s.status = .running → s.program.length ≤ nnn.toNat → ∃ u, cycle t = .next (u, .halt))

/-- JumpIndexed (R133): pc becomes V0 + nnn, not reduced, at most 0x10FE (decision D10, log entry 14). -/
def Obligations.JumpIndexedAddsV0 : Prop :=
  ∀ (nnn : Addr) (s : State), ∃ t, exec (.jumpIndexed nnn) s = .next t ∧ OnlyPc s t ∧ MemSame s t ∧
    t.pc = (s.getV 0).toNat + nnn.toNat ∧ t.pc ≤ 0x10FE

/-- CallSubroutine (R131): with fewer than 48 entries it pushes the pc it finds and jumps; on a full stack it raises
StackOverflow and changes neither (decision D23, log entry 9). -/
def Obligations.CallPushesReturnIndex : Prop :=
  ∀ (nnn : Addr) (s : State),
    (s.stack.length < 48 → ∃ t, exec (.callSubroutine nnn) s = .next t ∧ OnlyPcStack s t ∧ MemSame s t ∧
      t.stack = s.pc :: s.stack ∧ t.pc = nnn.toNat) ∧
    (48 ≤ s.stack.length → ∃ t, exec (.callSubroutine nnn) s = .next t ∧
      t = { s with status := .faulted .stackOverflow })

/-- ReturnFromSubroutine (R132): it pops the top entry into the pc; on an empty stack it raises StackUnderflow. -/
def Obligations.ReturnPopsIntoPc : Prop :=
  ∀ s : State,
    (∀ p rest, s.stack = p :: rest → ∃ t, exec .returnFromSubroutine s = .next t ∧ OnlyPcStack s t ∧ MemSame s t ∧
      t.stack = rest ∧ t.pc = p) ∧
    (s.stack = [] → ∃ t, exec .returnFromSubroutine s = .next t ∧ t = { s with status := .faulted .stackUnderflow })

/-- A return restores the pc its matching call pushed and the stack below it, whatever else the subroutine
changed (R132). -/
def Obligations.ReturnUndoesMatchingCall : Prop :=
  ∀ (nnn : Addr) (s : State), s.stack.length < 48 → ∃ t, exec (.callSubroutine nnn) s = .next t ∧
    ∀ u : State, u.stack = t.stack → ∃ w, exec .returnFromSubroutine u = .next w ∧ w.pc = s.pc ∧ w.stack = s.stack

/-! ### Skips -/

/-- The four skips (R151 to R154): the pc moves on by one more exactly when the predicate the name states holds;
nothing else changes (the predicates are decision D21, log entry 18). -/
def Obligations.SkipsTestTheirPredicate : Prop :=
  ∀ (x y : RegIdx) (kk : Byte) (s : State),
    (∃ t, exec (.skipIfRegEqualsConst x kk) s = .next t ∧ OnlyPc s t ∧ MemSame s t ∧
      t.pc = if (s.getV x).toNat = kk.toNat then s.pc + 1 else s.pc) ∧
    (∃ t, exec (.skipIfRegNotEqualsConst x kk) s = .next t ∧ OnlyPc s t ∧ MemSame s t ∧
      t.pc = if (s.getV x).toNat = kk.toNat then s.pc else s.pc + 1) ∧
    (∃ t, exec (.skipIfRegEqualsReg x y) s = .next t ∧ OnlyPc s t ∧ MemSame s t ∧
      t.pc = if (s.getV x).toNat = (s.getV y).toNat then s.pc + 1 else s.pc) ∧
    (∃ t, exec (.skipIfRegNotEqualsReg x y) s = .next t ∧ OnlyPc s t ∧ MemSame s t ∧
      t.pc = if (s.getV x).toNat = (s.getV y).toNat then s.pc else s.pc + 1)

/-- A taken skip at index j leaves pc = j + 2, one not taken j + 1, and no skip writes a register (R150); which
predicate takes each skip (R151 to R154) is the spec's decision D21 (log entry 18). -/
def Obligations.TakenSkipPassesOneEntry : Prop :=
  ∀ (s : State) (d : Decoded), s.status = .running → s.program[s.pc]? = some d →
    (∀ x kk, d.instr = .skipIfRegEqualsConst x kk → ∃ t, step s = .next t ∧ t.v = s.v ∧
      t.pc = if s.getV x = kk then s.pc + 2 else s.pc + 1) ∧
    (∀ x kk, d.instr = .skipIfRegNotEqualsConst x kk → ∃ t, step s = .next t ∧ t.v = s.v ∧
      t.pc = if s.getV x = kk then s.pc + 1 else s.pc + 2) ∧
    (∀ x y, d.instr = .skipIfRegEqualsReg x y → ∃ t, step s = .next t ∧ t.v = s.v ∧
      t.pc = if s.getV x = s.getV y then s.pc + 2 else s.pc + 1) ∧
    (∀ x y, d.instr = .skipIfRegNotEqualsReg x y → ∃ t, step s = .next t ∧ t.v = s.v ∧
      t.pc = if s.getV x = s.getV y then s.pc + 1 else s.pc + 2)

/-! ### Register loads, arithmetic and bitwise operations -/

/-- SetRegConst and SetRegReg (R172, R174): their encodings; V[x] receives the constant, or V[y]; no flag, nothing
else changes. -/
def Obligations.RegisterLoadsSetDestination : Prop :=
  EncodedBy 0xF000 0x6000 (fun w => .setRegConst w.xOf w.kkOf) ∧
  EncodedBy 0xF00F 0x8000 (fun w => .setRegReg w.xOf w.yOf) ∧
  ∀ (x y : RegIdx) (kk : Byte) (s : State),
    (∃ t, exec (.setRegConst x kk) s = .next t ∧ OnlyRegs s t ∧ MemSame s t ∧ RegsSameExcept [x] s t ∧
      t.getV x = kk) ∧
    (∃ t, exec (.setRegReg x y) s = .next t ∧ OnlyRegs s t ∧ MemSame s t ∧ RegsSameExcept [x] s t ∧
      t.getV x = s.getV y)

/-- AddConstNoFlag (R173): its encoding; the sum modulo 256; VF keeps its value unless it is the destination. -/
def Obligations.AddConstWrapsWithoutFlag : Prop :=
  EncodedBy 0xF000 0x7000 (fun w => .addConstNoFlag w.xOf w.kkOf) ∧
  ∀ (x : RegIdx) (kk : Byte) (s : State), ∃ t, exec (.addConstNoFlag x kk) s = .next t ∧ OnlyRegs s t ∧
    MemSame s t ∧ RegsSameExcept [x] s t ∧ (t.getV x).toNat = ((s.getV x).toNat + kk.toNat) % 256

/-- Or, And, Xor (R175, R176, R177): their encodings; the result bit by bit; no flag. -/
def Obligations.BitwiseOperationsCombineBits : Prop :=
  EncodedBy 0xF00F 0x8001 (fun w => .orReg w.xOf w.yOf) ∧
  EncodedBy 0xF00F 0x8002 (fun w => .andReg w.xOf w.yOf) ∧
  EncodedBy 0xF00F 0x8003 (fun w => .xorReg w.xOf w.yOf) ∧
  ∀ (x y : RegIdx) (s : State),
    (∃ t, exec (.orReg x y) s = .next t ∧ OnlyRegs s t ∧ MemSame s t ∧ RegsSameExcept [x] s t ∧
      ∀ b, (t.getV x).getLsbD b = ((s.getV x).getLsbD b || (s.getV y).getLsbD b)) ∧
    (∃ t, exec (.andReg x y) s = .next t ∧ OnlyRegs s t ∧ MemSame s t ∧ RegsSameExcept [x] s t ∧
      ∀ b, (t.getV x).getLsbD b = ((s.getV x).getLsbD b && (s.getV y).getLsbD b)) ∧
    (∃ t, exec (.xorReg x y) s = .next t ∧ OnlyRegs s t ∧ MemSame s t ∧ RegsSameExcept [x] s t ∧
      ∀ b, (t.getV x).getLsbD b = ((s.getV x).getLsbD b != (s.getV y).getLsbD b))

/-- AddReg (R178): the sum modulo 256, and VF = 1 iff the unsigned sum exceeds 255; for x = 0xF the flag stays
(R171, decision D5, log entry 10). -/
def Obligations.AddRegSetsSumAndCarry : Prop :=
  ∀ (x y : RegIdx) (s : State), ∃ t, exec (.addReg x y) s = .next t ∧ OnlyRegs s t ∧ MemSame s t ∧
    RegsSameExcept [x, 15] s t ∧
    (x ≠ 15 → (t.getV x).toNat = ((s.getV x).toNat + (s.getV y).toNat) % 256) ∧
    (t.getV 15).toNat = if 255 < (s.getV x).toNat + (s.getV y).toNat then 1 else 0

/-- SubReg and SubRegReversed (R179, R181): the difference modulo 256, and VF = NOT borrow; for x = 0xF the flag
stays (R171, decision D5, log entry 10). -/
def Obligations.SubtractionsSetNoBorrow : Prop :=
  ∀ (x y : RegIdx) (s : State),
    (∃ t, exec (.subReg x y) s = .next t ∧ OnlyRegs s t ∧ MemSame s t ∧ RegsSameExcept [x, 15] s t ∧
      (x ≠ 15 → (t.getV x).toNat = ((s.getV x).toNat + 256 - (s.getV y).toNat) % 256) ∧
      (t.getV 15).toNat = if (s.getV y).toNat ≤ (s.getV x).toNat then 1 else 0) ∧
    (∃ t, exec (.subRegReversed x y) s = .next t ∧ OnlyRegs s t ∧ MemSame s t ∧ RegsSameExcept [x, 15] s t ∧
      (x ≠ 15 → (t.getV x).toNat = ((s.getV y).toNat + 256 - (s.getV x).toNat) % 256) ∧
      (t.getV 15).toNat = if (s.getV x).toNat ≤ (s.getV y).toNat then 1 else 0)

/-- ShiftRight and ShiftLeft (R180, R182): V[x] halved, or doubled modulo 256, whatever y is, and VF = the bit
shifted out; for x = 0xF the flag stays (R171, decision D5, log entry 10). -/
def Obligations.ShiftsSetBitShiftedOut : Prop :=
  ∀ (x y : RegIdx) (s : State),
    (∃ t, exec (.shiftRight x y) s = .next t ∧ OnlyRegs s t ∧ MemSame s t ∧ RegsSameExcept [x, 15] s t ∧
      (x ≠ 15 → (t.getV x).toNat = (s.getV x).toNat / 2) ∧ (t.getV 15).toNat = (s.getV x).toNat % 2) ∧
    (∃ t, exec (.shiftLeft x y) s = .next t ∧ OnlyRegs s t ∧ MemSame s t ∧ RegsSameExcept [x, 15] s t ∧
      (x ≠ 15 → (t.getV x).toNat = 2 * (s.getV x).toNat % 256) ∧ (t.getV 15).toNat = (s.getV x).toNat / 128)

/-! ### Index register and memory -/

/-- SetIndexConst (R200): its encoding; I becomes nnn; nothing else changes. -/
def Obligations.SetIndexLoadsAddress : Prop :=
  EncodedBy 0xF000 0xA000 (fun w => .setIndexConst w.nnnOf) ∧
  ∀ (nnn : Addr) (s : State), ∃ t, exec (.setIndexConst nnn) s = .next t ∧ OnlyIndex s t ∧ MemSame s t ∧
    t.i.toNat = nnn.toNat

/-- AddIndexReg (R201): I becomes (I + V[x]) mod 4096; VF is not written (decision D4, log entry 11). -/
def Obligations.AddIndexWrapsWithoutFlag : Prop :=
  ∀ (x : RegIdx) (s : State), ∃ t, exec (.addIndexReg x) s = .next t ∧ OnlyIndex s t ∧ MemSame s t ∧
    t.i.toNat = (s.i.toNat + (s.getV x).toNat) % 4096

/-- StoreBCD (R202): hundreds, tens and units of V[x] at offsets 0, 1 and 2 from I; every other byte and every
register is unchanged (the addresses past 0xFFF are decision D3, log entry 2). -/
def Obligations.StoreBCDWritesDigits : Prop :=
  ∀ (x : RegIdx) (s : State), s.CanTouch 3 → ∃ t, exec (.storeBCD x) s = .next t ∧ OnlyMem s t ∧
    (∀ a, s.ea 0 = .ok a → (t.mem.read a).toNat = (s.getV x).toNat / 100) ∧
    (∀ a, s.ea 1 = .ok a → (t.mem.read a).toNat = (s.getV x).toNat / 10 % 10) ∧
    (∀ a, s.ea 2 = .ok a → (t.mem.read a).toNat = (s.getV x).toNat % 10) ∧
    (∀ a, (∀ k, k < 3 → s.ea k ≠ .ok a) → t.mem.read a = s.mem.read a)

/-- DumpRegistersToMemory (R203): V0 to V[x] at offsets 0 to x from I; every other byte, every register and I are
unchanged (decisions D3 and D7, log entries 2 and 12). -/
def Obligations.DumpWritesRegisters : Prop :=
  ∀ (x : RegIdx) (s : State), s.CanTouch (x.val + 1) → ∃ t, exec (.dumpRegistersToMemory x) s = .next t ∧
    OnlyMem s t ∧
    (∀ k : RegIdx, k ≤ x → ∀ a, s.ea k.val = .ok a → t.mem.read a = s.getV k) ∧
    (∀ a, (∀ k, k ≤ x.val → s.ea k ≠ .ok a) → t.mem.read a = s.mem.read a)

/-- LoadRegistersFromMemory (R204): V0 to V[x] from offsets 0 to x from I; registers above x, I and memory are
unchanged (decisions D3 and D7, log entries 2 and 12). -/
def Obligations.LoadReadsRegisters : Prop :=
  ∀ (x : RegIdx) (s : State), s.CanTouch (x.val + 1) → ∃ t, exec (.loadRegistersFromMemory x) s = .next t ∧
    OnlyRegs s t ∧ MemSame s t ∧
    (∀ k : RegIdx, k ≤ x → ∀ a, s.ea k.val = .ok a → t.getV k = s.mem.read a) ∧
    (∀ k : RegIdx, x < k → t.getV k = s.getV k)

/-- Dumping and loading the same registers at the same I restores them, whatever the registers held in between
(R204's worked example, for every x; decision D3). -/
def Obligations.LoadUndoesDump : Prop :=
  ∀ (x : RegIdx) (s : State), s.CanTouch (x.val + 1) → ∃ t, exec (.dumpRegistersToMemory x) s = .next t ∧
    ∀ u : State, u.mem = t.mem → u.i = s.i → u.params = s.params →
      ∃ w, exec (.loadRegistersFromMemory x) u = .next w ∧ (∀ k : RegIdx, k ≤ x → w.getV k = s.getV k) ∧
        (∀ k : RegIdx, x < k → w.getV k = u.getV k)

/-! ### Timers and the generator -/

/-- GetDelayTimer, SetDelayTimer, SetSoundTimer (R220, R221, R222; decision D6, log entry 13), before the cycle's
decay. -/
def Obligations.TimerInstructionsMoveBytes : Prop :=
  ∀ (x : RegIdx) (s : State),
    (∃ t, exec (.getDelayTimer x) s = .next t ∧ OnlyRegs s t ∧ MemSame s t ∧ RegsSameExcept [x] s t ∧
      t.getV x = s.dt) ∧
    (∃ t, exec (.setDelayTimer x) s = .next t ∧ t = { s with dt := s.getV x } ∧ MemSame s t) ∧
    (∃ t, exec (.setSoundTimer x) s = .next t ∧ t = { s with st := s.getV x } ∧ MemSame s t)

/-- RandomMasked (R231): its encoding; one draw; V[x] receives the new generator state masked with kk, so its bits where kk is 0
are 0. Holds whatever PRNG_NEXT is (log entry 5). -/
def Obligations.RandomMaskedDrawsOnce : Prop :=
  EncodedBy 0xF000 0xC000 (fun w => .randomMasked w.xOf w.kkOf) ∧
  ∀ (x : RegIdx) (kk : Byte) (s : State), ∃ t, exec (.randomMasked x kk) s = .next t ∧
    t = { s with rng := Config.prngNext s.rng, v := t.v } ∧ MemSame s t ∧ RegsSameExcept [x] s t ∧
    (t.getV x).toNat = (Config.prngNext s.rng).toNat &&& kk.toNat ∧
    (∀ b, kk.getLsbD b = false → (t.getV x).getLsbD b = false)

/-! ### Display -/

/-- ClearDisplay (R241): its encoding under each reading of group 0; all 2048 cells 0 and the frame marked changed,
also where it was blank already; VF and all else unchanged. -/
def Obligations.ClearDisplayBlanksFrame : Prop :=
  EncodedBy 0xFFFF 0x00E0 (fun _ => .clearDisplay) ∧
  (∀ w : Word, w &&& 0xF0FF = 0x00E0 → decode .literal w = .ok .clearDisplay) ∧
  ∀ s : State, ∃ t, exec .clearDisplay s = .next t ∧ t = { s with fb := t.fb, frameChanged := true } ∧
    MemSame s t ∧ RegsSameExcept [] s t ∧ ∀ c r, t.fb.get c r = false

/-- DrawSprite (R240, R242): exactly the sprite's pixels flip, both coordinates reduced; VF = 1 iff some flip turned
a set pixel off, OR-accumulated over the sprite; the frame is marked changed; all else is unchanged (the addresses
past 0xFFF are decision D3, log entry 2). -/
def Obligations.DrawSpriteFlipsAndCollides : Prop :=
  ∀ (x y : RegIdx) (n : BitVec 4) (s : State), s.CanTouch n.toNat → ∃ t, exec (.drawSprite x y n) s = .next t ∧
    t = { s with fb := t.fb, v := t.v, frameChanged := true } ∧ MemSame s t ∧ RegsSameExcept [15] s t ∧
    (∀ c r, s.SpritePixel x y n c r → t.fb.get c r = !(s.fb.get c r)) ∧
    (∀ c r, ¬ s.SpritePixel x y n c r → t.fb.get c r = s.fb.get c r) ∧
    ((∃ c r, s.SpritePixel x y n c r ∧ s.fb.get c r = true) → t.getV 15 = 1) ∧
    ((∀ c r, s.SpritePixel x y n c r → s.fb.get c r = false) → t.getV 15 = 0)

/-- Drawing the same sprite at the same place a second time restores the framebuffer, and collides exactly when
some sprite pixel was clear before the first draw (R242's worked example, for every sprite; decision D3). -/
def Obligations.SecondDrawRestoresFrame : Prop :=
  ∀ (x y : RegIdx) (n : BitVec 4) (s : State), s.CanTouch n.toNat → ∃ t, exec (.drawSprite x y n) s = .next t ∧
    ∀ u : State, u.fb = t.fb → u.getV x = s.getV x → u.getV y = s.getV y → u.mem = s.mem → u.i = s.i →
      u.params = s.params →
      ∃ w, exec (.drawSprite x y n) u = .next w ∧ w.fb = s.fb ∧
        (w.getV 15 = 1 ↔ ∃ c r, s.SpritePixel x y n c r ∧ s.fb.get c r = false)

/-! ### Unimplemented instructions -/

/-- The five unimplemented instructions raise NotImplemented with their identity whatever the operands, before
touching any state (R260 to R265; the faulted status as a next state is log entry 6). -/
def Obligations.UnimplementedInstructionsRaise : Prop :=
  ∀ (i : Instr) (u : Unimplemented) (s : State), u.isRaisedBy i →
    exec i s = .next { s with status := .faulted (.notImplemented u) }
end

