-- ==== Sys2Proof/Laws/State.lean ====
section
/-! SUPPORT. One lemma per field per update of the state, so that no proof unfolds a record update. -/

namespace Sys2Proof.Machine

variable (s : State)

/-! ### setV -/

@[simp] theorem State.setV_v (x : RegIdx) (b : Byte) : (s.setV x b).v = s.v.set x.val b := rfl
@[simp] theorem State.setV_i (x : RegIdx) (b : Byte) : (s.setV x b).i = s.i := rfl
@[simp] theorem State.setV_pc (x : RegIdx) (b : Byte) : (s.setV x b).pc = s.pc := rfl
@[simp] theorem State.setV_stack (x : RegIdx) (b : Byte) : (s.setV x b).stack = s.stack := rfl
@[simp] theorem State.setV_dt (x : RegIdx) (b : Byte) : (s.setV x b).dt = s.dt := rfl
@[simp] theorem State.setV_st (x : RegIdx) (b : Byte) : (s.setV x b).st = s.st := rfl
@[simp] theorem State.setV_fb (x : RegIdx) (b : Byte) : (s.setV x b).fb = s.fb := rfl
@[simp] theorem State.setV_frameChanged (x : RegIdx) (b : Byte) : (s.setV x b).frameChanged = s.frameChanged := rfl
@[simp] theorem State.setV_rng (x : RegIdx) (b : Byte) : (s.setV x b).rng = s.rng := rfl
@[simp] theorem State.setV_status (x : RegIdx) (b : Byte) : (s.setV x b).status = s.status := rfl
@[simp] theorem State.setV_mem (x : RegIdx) (b : Byte) : (s.setV x b).mem = s.mem := rfl
@[simp] theorem State.setV_program (x : RegIdx) (b : Byte) : (s.setV x b).program = s.program := rfl
@[simp] theorem State.setV_params (x : RegIdx) (b : Byte) : (s.setV x b).params = s.params := rfl

/-! ### setI -/

@[simp] theorem State.setI_v (a : Addr) : (s.setI a).v = s.v := rfl
@[simp] theorem State.setI_i (a : Addr) : (s.setI a).i = a := rfl
@[simp] theorem State.setI_pc (a : Addr) : (s.setI a).pc = s.pc := rfl
@[simp] theorem State.setI_stack (a : Addr) : (s.setI a).stack = s.stack := rfl
@[simp] theorem State.setI_dt (a : Addr) : (s.setI a).dt = s.dt := rfl
@[simp] theorem State.setI_st (a : Addr) : (s.setI a).st = s.st := rfl
@[simp] theorem State.setI_fb (a : Addr) : (s.setI a).fb = s.fb := rfl
@[simp] theorem State.setI_frameChanged (a : Addr) : (s.setI a).frameChanged = s.frameChanged := rfl
@[simp] theorem State.setI_rng (a : Addr) : (s.setI a).rng = s.rng := rfl
@[simp] theorem State.setI_status (a : Addr) : (s.setI a).status = s.status := rfl
@[simp] theorem State.setI_mem (a : Addr) : (s.setI a).mem = s.mem := rfl
@[simp] theorem State.setI_program (a : Addr) : (s.setI a).program = s.program := rfl
@[simp] theorem State.setI_params (a : Addr) : (s.setI a).params = s.params := rfl

/-! ### setPc -/

@[simp] theorem State.setPc_v (p : Nat) : (s.setPc p).v = s.v := rfl
@[simp] theorem State.setPc_i (p : Nat) : (s.setPc p).i = s.i := rfl
@[simp] theorem State.setPc_pc (p : Nat) : (s.setPc p).pc = p := rfl
@[simp] theorem State.setPc_stack (p : Nat) : (s.setPc p).stack = s.stack := rfl
@[simp] theorem State.setPc_dt (p : Nat) : (s.setPc p).dt = s.dt := rfl
@[simp] theorem State.setPc_st (p : Nat) : (s.setPc p).st = s.st := rfl
@[simp] theorem State.setPc_fb (p : Nat) : (s.setPc p).fb = s.fb := rfl
@[simp] theorem State.setPc_frameChanged (p : Nat) : (s.setPc p).frameChanged = s.frameChanged := rfl
@[simp] theorem State.setPc_rng (p : Nat) : (s.setPc p).rng = s.rng := rfl
@[simp] theorem State.setPc_status (p : Nat) : (s.setPc p).status = s.status := rfl
@[simp] theorem State.setPc_mem (p : Nat) : (s.setPc p).mem = s.mem := rfl
@[simp] theorem State.setPc_program (p : Nat) : (s.setPc p).program = s.program := rfl
@[simp] theorem State.setPc_params (p : Nat) : (s.setPc p).params = s.params := rfl

/-! ### push -/

@[simp] theorem State.push_v (p : Nat) : (s.push p).v = s.v := rfl
@[simp] theorem State.push_i (p : Nat) : (s.push p).i = s.i := rfl
@[simp] theorem State.push_pc (p : Nat) : (s.push p).pc = s.pc := rfl
@[simp] theorem State.push_stack (p : Nat) : (s.push p).stack = p :: s.stack := rfl
@[simp] theorem State.push_dt (p : Nat) : (s.push p).dt = s.dt := rfl
@[simp] theorem State.push_st (p : Nat) : (s.push p).st = s.st := rfl
@[simp] theorem State.push_fb (p : Nat) : (s.push p).fb = s.fb := rfl
@[simp] theorem State.push_frameChanged (p : Nat) : (s.push p).frameChanged = s.frameChanged := rfl
@[simp] theorem State.push_rng (p : Nat) : (s.push p).rng = s.rng := rfl
@[simp] theorem State.push_status (p : Nat) : (s.push p).status = s.status := rfl
@[simp] theorem State.push_mem (p : Nat) : (s.push p).mem = s.mem := rfl
@[simp] theorem State.push_program (p : Nat) : (s.push p).program = s.program := rfl
@[simp] theorem State.push_params (p : Nat) : (s.push p).params = s.params := rfl

/-! ### raise -/

@[simp] theorem State.raise_v (f : Fault) : (s.raise f).v = s.v := rfl
@[simp] theorem State.raise_i (f : Fault) : (s.raise f).i = s.i := rfl
@[simp] theorem State.raise_pc (f : Fault) : (s.raise f).pc = s.pc := rfl
@[simp] theorem State.raise_stack (f : Fault) : (s.raise f).stack = s.stack := rfl
@[simp] theorem State.raise_dt (f : Fault) : (s.raise f).dt = s.dt := rfl
@[simp] theorem State.raise_st (f : Fault) : (s.raise f).st = s.st := rfl
@[simp] theorem State.raise_fb (f : Fault) : (s.raise f).fb = s.fb := rfl
@[simp] theorem State.raise_frameChanged (f : Fault) : (s.raise f).frameChanged = s.frameChanged := rfl
@[simp] theorem State.raise_rng (f : Fault) : (s.raise f).rng = s.rng := rfl
@[simp] theorem State.raise_status (f : Fault) : (s.raise f).status = .faulted f := rfl
@[simp] theorem State.raise_mem (f : Fault) : (s.raise f).mem = s.mem := rfl
@[simp] theorem State.raise_program (f : Fault) : (s.raise f).program = s.program := rfl
@[simp] theorem State.raise_params (f : Fault) : (s.raise f).params = s.params := rfl

/-! ### setResultAndFlag -/

@[simp] theorem State.setResultAndFlag_v (x : RegIdx) (r f : Byte) : (s.setResultAndFlag x r f).v = (s.v.set x.val r).set 15 f := rfl
@[simp] theorem State.setResultAndFlag_i (x : RegIdx) (r f : Byte) : (s.setResultAndFlag x r f).i = s.i := rfl
@[simp] theorem State.setResultAndFlag_pc (x : RegIdx) (r f : Byte) : (s.setResultAndFlag x r f).pc = s.pc := rfl
@[simp] theorem State.setResultAndFlag_stack (x : RegIdx) (r f : Byte) : (s.setResultAndFlag x r f).stack = s.stack := rfl
@[simp] theorem State.setResultAndFlag_dt (x : RegIdx) (r f : Byte) : (s.setResultAndFlag x r f).dt = s.dt := rfl
@[simp] theorem State.setResultAndFlag_st (x : RegIdx) (r f : Byte) : (s.setResultAndFlag x r f).st = s.st := rfl
@[simp] theorem State.setResultAndFlag_fb (x : RegIdx) (r f : Byte) : (s.setResultAndFlag x r f).fb = s.fb := rfl
@[simp] theorem State.setResultAndFlag_frameChanged (x : RegIdx) (r f : Byte) : (s.setResultAndFlag x r f).frameChanged = s.frameChanged := rfl
@[simp] theorem State.setResultAndFlag_rng (x : RegIdx) (r f : Byte) : (s.setResultAndFlag x r f).rng = s.rng := rfl
@[simp] theorem State.setResultAndFlag_status (x : RegIdx) (r f : Byte) : (s.setResultAndFlag x r f).status = s.status := rfl
@[simp] theorem State.setResultAndFlag_mem (x : RegIdx) (r f : Byte) : (s.setResultAndFlag x r f).mem = s.mem := rfl
@[simp] theorem State.setResultAndFlag_program (x : RegIdx) (r f : Byte) : (s.setResultAndFlag x r f).program = s.program := rfl
@[simp] theorem State.setResultAndFlag_params (x : RegIdx) (r f : Byte) : (s.setResultAndFlag x r f).params = s.params := rfl

/-! ### decay -/

@[simp] theorem State.decay_v : (s.decay).v = s.v := rfl
@[simp] theorem State.decay_i : (s.decay).i = s.i := rfl
@[simp] theorem State.decay_pc : (s.decay).pc = s.pc := rfl
@[simp] theorem State.decay_stack : (s.decay).stack = s.stack := rfl
@[simp] theorem State.decay_dt : (s.decay).dt = decayByte s.dt := rfl
@[simp] theorem State.decay_st : (s.decay).st = decayByte s.st := rfl
@[simp] theorem State.decay_fb : (s.decay).fb = s.fb := rfl
@[simp] theorem State.decay_frameChanged : (s.decay).frameChanged = s.frameChanged := rfl
@[simp] theorem State.decay_rng : (s.decay).rng = s.rng := rfl
@[simp] theorem State.decay_status : (s.decay).status = s.status := rfl
@[simp] theorem State.decay_mem : (s.decay).mem = s.mem := rfl
@[simp] theorem State.decay_program : (s.decay).program = s.program := rfl
@[simp] theorem State.decay_params : (s.decay).params = s.params := rfl

/-! ### clearFrameChanged -/

@[simp] theorem State.clearFrameChanged_v : (s.clearFrameChanged).v = s.v := rfl
@[simp] theorem State.clearFrameChanged_i : (s.clearFrameChanged).i = s.i := rfl
@[simp] theorem State.clearFrameChanged_pc : (s.clearFrameChanged).pc = s.pc := rfl
@[simp] theorem State.clearFrameChanged_stack : (s.clearFrameChanged).stack = s.stack := rfl
@[simp] theorem State.clearFrameChanged_dt : (s.clearFrameChanged).dt = s.dt := rfl
@[simp] theorem State.clearFrameChanged_st : (s.clearFrameChanged).st = s.st := rfl
@[simp] theorem State.clearFrameChanged_fb : (s.clearFrameChanged).fb = s.fb := rfl
@[simp] theorem State.clearFrameChanged_frameChanged : (s.clearFrameChanged).frameChanged = false := rfl
@[simp] theorem State.clearFrameChanged_rng : (s.clearFrameChanged).rng = s.rng := rfl
@[simp] theorem State.clearFrameChanged_status : (s.clearFrameChanged).status = s.status := rfl
@[simp] theorem State.clearFrameChanged_mem : (s.clearFrameChanged).mem = s.mem := rfl
@[simp] theorem State.clearFrameChanged_program : (s.clearFrameChanged).program = s.program := rfl
@[simp] theorem State.clearFrameChanged_params : (s.clearFrameChanged).params = s.params := rfl

/-! ### begin -/

@[simp] theorem State.begin_v : (s.begin).v = s.v := rfl
@[simp] theorem State.begin_i : (s.begin).i = s.i := rfl
@[simp] theorem State.begin_pc : (s.begin).pc = s.pc + 1 := rfl
@[simp] theorem State.begin_stack : (s.begin).stack = s.stack := rfl
@[simp] theorem State.begin_dt : (s.begin).dt = s.dt := rfl
@[simp] theorem State.begin_st : (s.begin).st = s.st := rfl
@[simp] theorem State.begin_fb : (s.begin).fb = s.fb := rfl
@[simp] theorem State.begin_frameChanged : (s.begin).frameChanged = false := rfl
@[simp] theorem State.begin_rng : (s.begin).rng = s.rng := rfl
@[simp] theorem State.begin_status : (s.begin).status = s.status := rfl
@[simp] theorem State.begin_mem : (s.begin).mem = s.mem := rfl
@[simp] theorem State.begin_program : (s.begin).program = s.program := rfl
@[simp] theorem State.begin_params : (s.begin).params = s.params := rfl

end Sys2Proof.Machine
end

