-- ==== Sys2Proof/Laws/Cycle.lean ====
section
/-! SUPPORT. What one step and one cycle can do: said once for the three conditions of the core (R122). -/

namespace Sys2Proof.Machine

theorem cycle_of_faulted {s : State} {k : Fault} (h : s.status = .faulted k) : cycle s = .next (s, .fault k) := by
  simp [cycle, cycleWith, h]

theorem cycle_of_fetch_none {s : State} (h : s.status = .running) (hf : s.program[s.pc]? = none) :
    cycle s = .next (s.clearFrameChanged, .halt) := by
  simp only [cycle, cycleWith, h, State.fetch, hf]

theorem cycle_of_fetch {s : State} {d : Decoded} (h : s.status = .running) (hf : s.program[s.pc]? = some d) :
    cycle s = finishCycle (exec d.instr s.begin) := by
  simp only [cycle, cycleWith, h, State.fetch, hf]

theorem step_of_running {s : State} (h : s.status = .running) : step s = dropResult (cycle s) := by
  simp only [step, stepWith, h, cycle]

theorem step_of_faulted {s : State} {k : Fault} (h : s.status = .faulted k) : step s = .fault k := by
  simp [step, stepWith, h]

/-- A step that answers a state either ran the fetched instruction and finished it, or found the program at its end. -/
theorem step_cases {s t : State} (h : step s = .next t) :
    s.status = .running ∧
      ((s.program[s.pc]? = none ∧ t = s.clearFrameChanged) ∨
        ∃ d u, s.program[s.pc]? = some d ∧ exec d.instr s.begin = .next u ∧ t = u.finish) := by
  cases hs : s.status with
  | faulted k => simp [step_of_faulted hs] at h
  | running =>
    refine ⟨rfl, ?_⟩
    rw [step_of_running hs] at h
    cases hf : s.program[s.pc]? with
    | none =>
      rw [cycle_of_fetch_none hs hf] at h
      exact .inl ⟨rfl, by simpa [dropResult] using h.symm⟩
    | some d =>
      rw [cycle_of_fetch hs hf] at h
      cases he : exec d.instr s.begin with
      | next u =>
        rw [he] at h
        exact .inr ⟨d, u, rfl, he, by simpa [dropResult, finishCycle] using h.symm⟩
      | fault f => rw [he] at h; simp [dropResult, finishCycle] at h
      | refused r => rw [he] at h; simp [dropResult, finishCycle] at h

theorem finish_of_running {t : State} (h : t.status = .running) : t.finish = t.decay := by
  simp [State.finish, h]

theorem finish_of_faulted {t : State} {k : Fault} (h : t.status = .faulted k) : t.finish = t := by
  simp [State.finish, h]

theorem decayByte_toNat (t : Byte) : (decayByte t).toNat = t.toNat - 1 := by
  unfold decayByte
  by_cases h : t = 0
  · simp [h]
  · have h0 : t.toNat ≠ 0 := fun e => h (BitVec.eq_of_toNat_eq (by simpa using e))
    have := t.isLt
    rw [if_neg h, BitVec.toNat_sub]
    simp
    omega

end Sys2Proof.Machine
end

