-- ==== Sys2Proof/Laws/Decode.lean ====
section
/-! SUPPORT. The fields of a word as numbers, and the fields of a packed word. -/

namespace Sys2Proof

/-! ### Fields as arithmetic on the word -/

theorem fieldGroup_toNat (w : Word) : (fieldGroup w).toNat = w.toNat / 4096 := by
  have := w.isLt
  simp only [fieldGroup, BitVec.extractLsb'_toNat, Nat.shiftRight_eq_div_pow]
  omega

theorem fieldX_val (w : Word) : (fieldX w).val = w.toNat / 256 % 16 := by
  show (w.extractLsb' 8 4).toNat = _
  simp only [BitVec.extractLsb'_toNat, Nat.shiftRight_eq_div_pow]

theorem fieldY_val (w : Word) : (fieldY w).val = w.toNat / 16 % 16 := by
  show (w.extractLsb' 4 4).toNat = _
  simp only [BitVec.extractLsb'_toNat, Nat.shiftRight_eq_div_pow]

theorem fieldN_toNat (w : Word) : (fieldN w).toNat = w.toNat % 16 := by
  simp only [fieldN, BitVec.extractLsb'_toNat, Nat.shiftRight_eq_div_pow]
  omega

theorem fieldKK_toNat (w : Word) : (fieldKK w).toNat = w.toNat % 256 := by
  simp only [fieldKK, BitVec.extractLsb'_toNat, Nat.shiftRight_eq_div_pow]
  omega

theorem fieldNNN_toNat (w : Word) : (fieldNNN w).toNat = w.toNat % 4096 := by
  simp only [fieldNNN, BitVec.extractLsb'_toNat, Nat.shiftRight_eq_div_pow]
  omega

/-! ### Fields of a word known under a mask -/

/-- A field on which the mask is all ones has the value's bits. -/
theorem extract_of_masked {w mask value : Word} (h : w &&& mask = value) (lo len : Nat)
    (hm : mask.extractLsb' lo len = BitVec.allOnes len) : w.extractLsb' lo len = value.extractLsb' lo len := by
  rw [← h, BitVec.extractLsb'_and, hm, BitVec.and_allOnes]

/-! ### Packed words as numbers -/

theorem append_toNat {m n : Nat} (a : BitVec m) (b : BitVec n) : (a ++ b).toNat = a.toNat * 2 ^ n + b.toNat := by
  rw [BitVec.toNat_append, Nat.shiftLeft_eq, Nat.mul_comm, ← Nat.two_pow_add_eq_or_of_lt b.isLt]

theorem packAddress_toNat (g : BitVec 4) (nnn : Addr) :
    (packAddress g nnn).toNat = g.toNat * 4096 + nnn.toNat := by
  rw [packAddress, append_toNat]
  norm_num

theorem packRegByte_toNat (g : BitVec 4) (x : RegIdx) (kk : Byte) :
    (packRegByte g x kk).toNat = g.toNat * 4096 + x.val * 256 + kk.toNat := by
  rw [packRegByte, append_toNat, append_toNat]
  simp only [BitVec.toNat_ofFin]
  omega

theorem packRegReg_toNat (g : BitVec 4) (x y : RegIdx) (n : BitVec 4) :
    (packRegReg g x y n).toNat = g.toNat * 4096 + x.val * 256 + y.val * 16 + n.toNat := by
  rw [packRegReg, append_toNat, append_toNat, append_toNat]
  simp only [BitVec.toNat_ofFin]
  omega

end Sys2Proof
end

