-- ==== Sys2Proof/Laws/Display.lean ====
section
/-! SUPPORT. What drawing does to the framebuffer: each listed pixel flips once, and the collision is the OR over
the pixels; and which pixels a sprite lists. -/

namespace Sys2Proof.Machine

theorem Framebuffer.get_flip (fb : Framebuffer) (c c' : Fin 64) (r r' : Fin 32) :
    (fb.flip c r).get c' r' = if c' = c ∧ r' = r then !(fb.get c' r') else fb.get c' r' := by
  unfold Framebuffer.flip Framebuffer.get
  rw [Vector.getElem_set]
  by_cases hc : c = c'
  · subst hc
    rw [if_pos rfl, Vector.getElem_set]
    by_cases hr : r = r'
    · subst hr
      simp
    · have : r.val ≠ r'.val := fun e => hr (Fin.ext e)
      simp [this, Ne.symm hr]
  · have : c.val ≠ c'.val := fun e => hc (Fin.ext e)
    simp [this, Ne.symm hc]

@[simp] theorem Framebuffer.get_blank (c : Fin 64) (r : Fin 32) : Framebuffer.blank.get c r = false := by
  simp [Framebuffer.get, Framebuffer.blank]

/-- Framebuffers with the same cells are equal. -/
theorem Framebuffer.ext_get {f g : Framebuffer} (h : ∀ c r, f.get c r = g.get c r) : f = g := by
  apply Vector.ext
  intro c hc
  apply Vector.ext
  intro r hr
  exact h ⟨c, hc⟩ ⟨r, hr⟩

/-- Drawing distinct pixels: exactly they flip. -/
theorem drawPixels_get (fb : Framebuffer) (col : Bool) (ps : List (Fin 64 × Fin 32)) (hd : ps.Nodup)
    (c : Fin 64) (r : Fin 32) :
    (drawPixels fb col ps).1.get c r = if (c, r) ∈ ps then !(fb.get c r) else fb.get c r := by
  induction ps generalizing fb col with
  | nil => simp [drawPixels]
  | cons p rest ih =>
    obtain ⟨pc, pr⟩ := p
    obtain ⟨hp, hr⟩ := List.nodup_cons.1 hd
    rw [drawPixels, ih _ _ hr, Framebuffer.get_flip]
    by_cases h : c = pc ∧ r = pr
    · obtain ⟨rfl, rfl⟩ := h
      simp [hp]
    · have : (c, r) ≠ (pc, pr) := fun e => h (Prod.mk.inj e)
      simp [h, this]

/-- Drawing distinct pixels: the collision is the OR over them of the cell before the draw. -/
theorem drawPixels_collision (fb : Framebuffer) (col : Bool) (ps : List (Fin 64 × Fin 32)) (hd : ps.Nodup) :
    (drawPixels fb col ps).2 = true ↔ col = true ∨ ∃ p ∈ ps, fb.get p.1 p.2 = true := by
  induction ps generalizing fb col with
  | nil => simp [drawPixels]
  | cons p rest ih =>
    obtain ⟨hp, hr⟩ := List.nodup_cons.1 hd
    rw [drawPixels, ih _ _ hr]
    have hsame : ∀ q ∈ rest, (fb.flip p.1 p.2).get q.1 q.2 = fb.get q.1 q.2 := by
      intro q hq
      rw [Framebuffer.get_flip, if_neg]
      rintro ⟨h1, h2⟩
      exact hp (Prod.ext h1 h2 ▸ hq)
    constructor
    · rintro (h | ⟨q, hq, hb⟩)
      · rcases Bool.or_eq_true_iff.1 h with h | h
        · exact .inl h
        · exact .inr ⟨p, by simp, h⟩
      · exact .inr ⟨q, by simp [hq], by rwa [hsame q hq] at hb⟩
    · rintro (h | ⟨q, hq, hb⟩)
      · exact .inl (by simp [h])
      · rcases List.mem_cons.1 hq with rfl | hq
        · exact .inl (by simp [hb])
        · exact .inr ⟨q, hq, by rwa [hsame q hq]⟩

theorem mem_rowPixels (cx cy r : Nat) (b : Byte) (p : Fin 64 × Fin 32) :
    p ∈ rowPixels cx cy r b ↔
      ∃ j, j < 8 ∧ b.getLsbD (7 - j) = true ∧ p.1.val = (cx + j) % 64 ∧ p.2.val = (cy + r) % 32 := by
  obtain ⟨pc, pr⟩ := p
  simp only [rowPixels, List.mem_map, List.mem_filter, List.mem_range, Prod.mk.injEq, Fin.ext_iff, Fin.ofNat]
  constructor
  · rintro ⟨j, ⟨h1, h2⟩, h3, h4⟩
    exact ⟨j, h1, h2, h3.symm, h4.symm⟩
  · rintro ⟨j, h1, h2, h3, h4⟩
    exact ⟨j, ⟨h1, h2⟩, h3.symm, h4.symm⟩

theorem nodup_rowPixels (cx cy r : Nat) (b : Byte) : (rowPixels cx cy r b).Nodup := by
  unfold rowPixels
  apply List.Nodup.map_on _ (List.nodup_range.filter _)
  intro j hj k hk h
  simp only [List.mem_filter, List.mem_range] at hj hk
  have h' := congrArg (fun p => p.1.val) h
  simp only [Fin.ofNat] at h'
  omega

/-- The pixels of a sprite: one for each set bit of each byte. -/
theorem mem_spritePixels (cx cy r : Nat) (bs : List Byte) (p : Fin 64 × Fin 32) :
    p ∈ spritePixels cx cy r bs ↔
      ∃ k, ∃ h : k < bs.length, ∃ j, j < 8 ∧ (bs[k]'h).getLsbD (7 - j) = true ∧
        p.1.val = (cx + j) % 64 ∧ p.2.val = (cy + (r + k)) % 32 := by
  induction bs generalizing r with
  | nil => simp [spritePixels]
  | cons b rest ih =>
    rw [spritePixels, List.mem_append, mem_rowPixels, ih]
    constructor
    · rintro (⟨j, h1, h2, h3, h4⟩ | ⟨k, hk, j, h1, h2, h3, h4⟩)
      · exact ⟨0, by simp, j, h1, h2, h3, h4⟩
      · refine ⟨k + 1, by simpa using hk, j, h1, by simpa using h2, h3, ?_⟩
        rw [h4]
        congr 1
        omega
    · rintro ⟨k, hk, j, h1, h2, h3, h4⟩
      cases k with
      | zero => exact .inl ⟨j, h1, by simpa using h2, h3, by simpa using h4⟩
      | succ k =>
        refine .inr ⟨k, by simpa using hk, j, h1, by simpa using h2, h3, ?_⟩
        rw [h4]
        congr 1
        omega

/-- Within one draw no pixel is flipped twice, because a sprite is at most 8 columns by 15 rows (R242). -/
theorem nodup_spritePixels (cx cy r : Nat) (bs : List Byte) (h : bs.length ≤ 32) :
    (spritePixels cx cy r bs).Nodup := by
  induction bs generalizing r with
  | nil => simp [spritePixels]
  | cons b rest ih =>
    simp only [List.length_cons] at h
    rw [spritePixels, List.nodup_append']
    refine ⟨nodup_rowPixels cx cy r b, ih _ (by omega), ?_⟩
    intro p hp hq
    obtain ⟨j, -, -, -, h4⟩ := (mem_rowPixels cx cy r b p).1 hp
    obtain ⟨k, hk, j', -, -, -, h4'⟩ := (mem_spritePixels cx cy (r + 1) rest p).1 hq
    omega

end Sys2Proof.Machine
end

