-- ==== Sys2Proof/Laws/Memory.lean ====
section
/-! SUPPORT. The laws of data memory and of the register file: a read after a write, the bytes a write leaves
alone, and the canonical form every memory operation keeps. -/

namespace Sys2Proof.Machine

/-! ### Registers -/

theorem State.getV_setV (s : State) (x r : RegIdx) (b : Byte) :
    (s.setV x b).getV r = if r = x then b else s.getV r := by
  unfold State.getV State.setV
  rw [Vector.getElem_set]
  by_cases h : r = x
  · simp [h]
  · have h' : x.val ≠ r.val := fun e => h (Fin.ext e.symm)
    simp [h, h']

@[simp] theorem State.getV_setV_same (s : State) (x : RegIdx) (b : Byte) : (s.setV x b).getV x = b := by
  simp [State.getV_setV]

theorem State.getV_setV_other (s : State) {x r : RegIdx} (b : Byte) (h : r ≠ x) :
    (s.setV x b).getV r = s.getV r := by
  simp [State.getV_setV, h]

/-- All a flag-producing instruction does to the registers: VF holds the flag, V[x] the result unless x is VF. -/
theorem State.getV_setResultAndFlag (s : State) (x r : RegIdx) (result flag : Byte) :
    (s.setResultAndFlag x result flag).getV r = if r = 15 then flag else if r = x then result else s.getV r := by
  simp [State.setResultAndFlag, State.getV_setV, regF]

/-- Reading a register depends on the register file alone. -/
theorem State.getV_congr {s t : State} (h : t.v = s.v) (r : RegIdx) : t.getV r = s.getV r := by
  simp [State.getV, h]

/-! ### Reads and writes of data memory -/

theorem Memory.read_erase_same (m : Memory) (a : Addr) : Memory.read (Memory.erase m a.toNat) a = unlistedByte := by
  induction m with
  | nil => rfl
  | cons c rest ih =>
    unfold Memory.erase at *
    by_cases h : c.1 = a.toNat <;> simp_all [Memory.read]

theorem Memory.read_erase_other (m : Memory) {a b : Addr} (h : b ≠ a) :
    Memory.read (Memory.erase m a.toNat) b = Memory.read m b := by
  have hn : a.toNat ≠ b.toNat := fun e => h (BitVec.eq_of_toNat_eq e.symm)
  induction m with
  | nil => rfl
  | cons c rest ih =>
    unfold Memory.erase at *
    by_cases hc : c.1 = a.toNat
    · simp [Memory.read, hc, hn, ih]
    · simp [Memory.read, hc, ih]

theorem Memory.read_insertCell (m : Memory) (a b : Addr) (v : Byte)
    (hm : ∀ c ∈ m, c.1 ≠ a.toNat) :
    Memory.read (Memory.insertCell (a.toNat, v) m) b = if b = a then v else Memory.read m b := by
  induction m with
  | nil =>
    by_cases hb : b = a
    · simp [Memory.insertCell, Memory.read, hb]
    · have : a.toNat ≠ b.toNat := fun e => hb (BitVec.eq_of_toNat_eq e.symm)
      simp [Memory.insertCell, Memory.read, hb, this]
  | cons c rest ih =>
    have hc := hm c (by simp)
    have hrest : ∀ d ∈ rest, d.1 ≠ a.toNat := fun d hd => hm d (by simp [hd])
    have ih := ih hrest
    unfold Memory.insertCell
    by_cases hb : b = a
    · subst hb
      split
      · simp [Memory.read]
      · simp [Memory.read, hc, ih]
    · have hn : a.toNat ≠ b.toNat := fun e => hb (BitVec.eq_of_toNat_eq e.symm)
      split
      · simp [Memory.read, hn]
      · simp [Memory.read, hb, ih]

theorem Memory.erase_ne (m : Memory) (k : Nat) : ∀ c ∈ Memory.erase m k, c.1 ≠ k := by
  intro c hc
  simp [Memory.erase] at hc
  exact hc.2

/-- A read after a write gives the value written there, and the old byte everywhere else. -/
theorem Memory.read_write (m : Memory) (a b : Addr) (v : Byte) :
    Memory.read (Memory.write m a v) b = if b = a then v else Memory.read m b := by
  unfold Memory.write
  split
  · rename_i hv
    by_cases hb : b = a
    · simp [hb, Memory.read_erase_same, hv]
    · simp [hb, Memory.read_erase_other]
  · rw [Memory.read_insertCell _ _ _ _ (Memory.erase_ne m _)]
    by_cases hb : b = a
    · simp [hb]
    · simp [hb, Memory.read_erase_other]

/-- A list of writes leaves every address outside the list alone. -/
theorem Memory.read_writeAll_other (m : Memory) (l : List (Addr × Byte)) (b : Addr) (h : ∀ p ∈ l, p.1 ≠ b) :
    Memory.read (Memory.writeAll m l) b = Memory.read m b := by
  induction l generalizing m with
  | nil => rfl
  | cons p rest ih =>
    obtain ⟨a, v⟩ := p
    have ha : b ≠ a := fun e => h (a, v) (by simp) e.symm
    rw [Memory.writeAll, ih _ (fun q hq => h q (by simp [hq])), Memory.read_write, if_neg ha]

/-- A list of writes to distinct addresses leaves each value at its address. -/
theorem Memory.read_writeAll_mem (m : Memory) (l : List (Addr × Byte)) (hd : (l.map Prod.fst).Nodup)
    {a : Addr} {v : Byte} (h : (a, v) ∈ l) : Memory.read (Memory.writeAll m l) a = v := by
  induction l generalizing m with
  | nil => simp at h
  | cons p rest ih =>
    obtain ⟨b, w⟩ := p
    simp only [List.map_cons, List.nodup_cons] at hd
    rw [Memory.writeAll]
    rcases List.mem_cons.1 h with h | h
    · obtain ⟨rfl, rfl⟩ := Prod.mk.inj h
      rw [Memory.read_writeAll_other, Memory.read_write, if_pos rfl]
      intro q hq e
      exact hd.1 (e ▸ List.mem_map_of_mem hq)
    · exact ih _ hd.2 h

/-! ### The canonical form -/

theorem Memory.wf_cons (c : Host.Cell) (m : Memory) :
    Memory.wf (c :: m) = true ↔
      c.1 < 4096 ∧ c.2 ≠ unlistedByte ∧ (∀ d ∈ m, c.1 < d.1) ∧ Memory.wf m = true := by
  simp [Memory.wf, and_assoc]

theorem Memory.wf_erase (m : Memory) (k : Nat) (h : Memory.wf m = true) : Memory.wf (Memory.erase m k) = true := by
  induction m with
  | nil => rfl
  | cons c rest ih =>
    rw [Memory.wf_cons] at h
    obtain ⟨h1, h2, h3, h4⟩ := h
    unfold Memory.erase at *
    by_cases hc : c.1 = k
    · simpa [hc] using ih h4
    · have : (c :: rest).filter (fun d => d.1 != k) = c :: rest.filter (fun d => d.1 != k) := by simp [hc]
      rw [this, Memory.wf_cons]
      exact ⟨h1, h2, fun d hd => h3 d (List.mem_of_mem_filter hd), ih h4⟩

theorem Memory.mem_insertCell (c d : Host.Cell) (m : Memory) : d ∈ Memory.insertCell c m ↔ d = c ∨ d ∈ m := by
  induction m with
  | nil => simp [Memory.insertCell]
  | cons e rest ih =>
    unfold Memory.insertCell
    split
    · simp
    · simp only [List.mem_cons, ih]
      tauto

theorem Memory.wf_insertCell (c : Host.Cell) (m : Memory) (h : Memory.wf m = true) (hc : c.1 < 4096)
    (hv : c.2 ≠ unlistedByte) (hm : ∀ d ∈ m, d.1 ≠ c.1) : Memory.wf (Memory.insertCell c m) = true := by
  induction m with
  | nil => exact (Memory.wf_cons c []).2 ⟨hc, hv, by simp, rfl⟩
  | cons e rest ih =>
    obtain ⟨h1, h2, h3, h4⟩ := (Memory.wf_cons e rest).1 h
    have hne := hm e (by simp)
    unfold Memory.insertCell
    split
    · rename_i hlt
      refine (Memory.wf_cons c _).2 ⟨hc, hv, fun d hd => ?_, h⟩
      rcases List.mem_cons.1 hd with rfl | hd
      · exact hlt
      · exact hlt.trans (h3 d hd)
    · rename_i hlt
      refine (Memory.wf_cons e _).2 ⟨h1, h2, fun d hd => ?_, ih h4 fun d hd => hm d (by simp [hd])⟩
      rcases (Memory.mem_insertCell c d rest).1 hd with rfl | hd
      · omega
      · exact h3 d hd

/-- A write keeps the canonical form. -/
theorem Memory.wf_write (m : Memory) (a : Addr) (v : Byte) (h : Memory.wf m = true) :
    Memory.wf (Memory.write m a v) = true := by
  unfold Memory.write
  split
  · exact Memory.wf_erase m _ h
  · rename_i hv
    exact Memory.wf_insertCell _ _ (Memory.wf_erase m _ h) a.isLt hv (Memory.erase_ne m _)

/-- A list of writes keeps the canonical form. -/
theorem Memory.wf_writeAll (m : Memory) (l : List (Addr × Byte)) (h : Memory.wf m = true) :
    Memory.wf (Memory.writeAll m l) = true := by
  induction l generalizing m with
  | nil => exact h
  | cons p rest ih => exact ih _ (Memory.wf_write m p.1 p.2 h)

end Sys2Proof.Machine
end

