-- ==== Sys2Proof/Laws/Operands.lean ====
section
/-! SUPPORT. What the effective addresses of an instruction are, once for all memory instructions, and what
`withAddrs` and `loadRegs` do. -/

namespace Sys2Proof.Machine

theorem ofNat12_mod (k : Nat) : BitVec.ofNat 12 (k % 4096) = BitVec.ofNat 12 k := by
  apply BitVec.eq_of_toNat_eq
  simp

/-- Both cases of R52: the address, reduced, or MemoryBounds. -/
theorem effectiveAddr_eq (mode : MemAddrOverflow) (i : Addr) (k : Nat) :
    effectiveAddr mode i k =
      if mode = .wrap ∨ i.toNat + k < 4096 then .ok (BitVec.ofNat 12 (i.toNat + k))
      else .error (.memoryBounds (i.toNat + k)) := by
  unfold effectiveAddr
  by_cases h : i.toNat + k ≤ 0xFFF
  · have h' : i.toNat + k < 4096 := by omega
    simp [h, h']
  · have h' : ¬ i.toNat + k < 4096 := by omega
    cases mode <;> simp [h, h', ofNat12_mod]

theorem effectiveAddrsFrom_eq (mode : MemAddrOverflow) (i : Addr) (k n : Nat) (hk : i.toNat + k ≤ 4096) :
    effectiveAddrsFrom mode i k n =
      if mode = .wrap ∨ i.toNat + k + n ≤ 4096 then
        .ok ((List.range' k n).map fun j => BitVec.ofNat 12 (i.toNat + j))
      else .error (.memoryBounds 4096) := by
  by_cases hw : mode = .wrap
  · subst hw
    simp only [true_or, if_true]
    clear hk
    induction n generalizing k with
    | zero => rfl
    | succ n ih => simp [effectiveAddrsFrom, effectiveAddr_eq, ih, List.range'_succ]
  · simp only [hw, false_or]
    induction n generalizing k with
    | zero => simp [effectiveAddrsFrom, hk]
    | succ n ih =>
      rw [effectiveAddrsFrom, effectiveAddr_eq]
      simp only [hw, false_or]
      by_cases h : i.toNat + k < 4096
      · rw [if_pos h]
        simp only
        rw [ih (k + 1) (by omega)]
        by_cases h2 : i.toNat + (k + 1) + n ≤ 4096
        · have h3 : i.toNat + k + (n + 1) ≤ 4096 := by omega
          simp [h2, h3, List.range'_succ]
        · have h3 : ¬ i.toNat + k + (n + 1) ≤ 4096 := by omega
          simp [h2, h3]
      · have h3 : ¬ i.toNat + k + (n + 1) ≤ 4096 := by omega
        have h4 : i.toNat + k = 4096 := by omega
        simp [h4]

/-- The addresses of an instruction that touches `n` bytes: all of them, or MemoryBounds at the first address past
0xFFF. -/
theorem State.addrs_eq (s : State) (n : Nat) :
    s.addrs n =
      if s.params.memAddrOverflow = .wrap ∨ s.i.toNat + n ≤ 4096 then
        .ok ((List.range n).map fun k => BitVec.ofNat 12 (s.i.toNat + k))
      else .error (.memoryBounds 4096) := by
  have := s.i.isLt
  rw [State.addrs, effectiveAddrsFrom_eq _ _ _ _ (by omega), List.range_eq_range']
  simp

/-- All an instruction that touches memory can do: its effect on the addresses, or MemoryBounds. -/
theorem State.withAddrs_eq (s : State) (n : Nat) (effect : List Addr → State) :
    s.withAddrs n effect =
      if s.params.memAddrOverflow = .wrap ∨ s.i.toNat + n ≤ 4096 then
        .next (effect ((List.range n).map fun k => BitVec.ofNat 12 (s.i.toNat + k)))
      else .next (s.raise (.memoryBounds 4096)) := by
  rw [State.withAddrs, State.addrs_eq]
  by_cases h : s.params.memAddrOverflow = .wrap ∨ s.i.toNat + n ≤ 4096
  · rw [if_pos h, if_pos h]
  · rw [if_neg h, if_neg h]

/-- An instruction that may touch its bytes has its effect on all their addresses. -/
theorem State.withAddrs_of_canTouch {s : State} {n : Nat} (h : s.CanTouch n) (effect : List Addr → State) :
    s.withAddrs n effect = .next (effect ((List.range n).map fun k => BitVec.ofNat 12 (s.i.toNat + k))) := by
  rw [State.withAddrs_eq]
  exact if_pos h

/-- The address of each byte an instruction may touch. -/
theorem State.ea_of_canTouch {s : State} {n k : Nat} (h : s.CanTouch n) (hk : k < n) :
    s.ea k = .ok (BitVec.ofNat 12 (s.i.toNat + k)) := by
  rw [State.ea, effectiveAddr_eq, if_pos]
  rcases h with h | h
  · exact .inl h
  · exact .inr (by omega)

/-- Offsets below 4096 from one base give distinct addresses. -/
theorem offset_inj {i : Addr} {j k : Nat} (hj : j < 4096) (hk : k < 4096)
    (h : (BitVec.ofNat 12 (i.toNat + j) : Addr) = BitVec.ofNat 12 (i.toNat + k)) : j = k := by
  have h' := congrArg BitVec.toNat h
  have := i.isLt
  simp only [BitVec.toNat_ofNat] at h'
  omega

/-- What `loadRegs` leaves in each register. -/
theorem loadRegs_getElem (m : Memory) (k : Nat) (as : List Addr) (v : Regs) (r : Nat) (hr : r < 16) :
    (loadRegs m k as v)[r] =
      if h : k ≤ r ∧ r - k < as.length then m.read (as[r - k]'h.2) else v[r] := by
  induction as generalizing k v with
  | nil => simp [loadRegs]
  | cons a rest ih =>
    rw [loadRegs, ih]
    by_cases h : k + 1 ≤ r ∧ r - (k + 1) < rest.length
    · have h2 : k ≤ r ∧ r - k < (a :: rest).length := by simp; omega
      have h3 : r - k = (r - (k + 1)) + 1 := by omega
      simp only [h, h2, and_self, dite_true]
      simp only [h3, List.getElem_cons_succ]
    · rw [dif_neg h, Vector.getElem_setIfInBounds]
      by_cases hk : k = r
      · subst hk
        simp
      · have h2 : ¬ (k ≤ r ∧ r - k < (a :: rest).length) := by simp; omega
        simp only [h2, dite_false, hk, if_false]

end Sys2Proof.Machine
end

