-- ==== Sys2Proof/Laws/PerInstr.lean ====
section
/-! SUPPORT. The rows of spec/opcode_table.json as numbers, and per constructor that its word matches its row: the
bits the row fixes have the row's values. The numbers are the table's "mask" and "match", not the encoder's. -/

namespace Sys2Proof.Laws.TableRow

/-- Whether a word has the values a row of the table fixes: its top nibble, and its low byte or low nibble where
the row's mask covers them. -/
def rowMatches (mask value : Nat) (w : Word) : Prop :=
  w.toNat / 4096 = value / 4096 ∧ (mask % 256 = 0xFF → w.toNat % 256 = value % 256) ∧
    (mask % 16 = 0xF → w.toNat % 16 = value % 16)

/-- The "mask" and "match" of an instruction's row. -/
def row : Instr → Nat × Nat
  | .clearDisplay => (0xF0FF, 0x00E0)
  | .returnFromSubroutine => (0xF0FF, 0x00EE)
  | .callMachineRoutine _ => (0xF000, 0x0000)
  | .jump _ => (0xF000, 0x1000)
  | .callSubroutine _ => (0xF000, 0x2000)
  | .skipIfRegEqualsConst _ _ => (0xF000, 0x3000)
  | .skipIfRegNotEqualsConst _ _ => (0xF000, 0x4000)
  | .skipIfRegEqualsReg _ _ => (0xF00F, 0x5000)
  | .setRegConst _ _ => (0xF000, 0x6000)
  | .addConstNoFlag _ _ => (0xF000, 0x7000)
  | .setRegReg _ _ => (0xF00F, 0x8000)
  | .orReg _ _ => (0xF00F, 0x8001)
  | .andReg _ _ => (0xF00F, 0x8002)
  | .xorReg _ _ => (0xF00F, 0x8003)
  | .addReg _ _ => (0xF00F, 0x8004)
  | .subReg _ _ => (0xF00F, 0x8005)
  | .shiftRight _ _ => (0xF00F, 0x8006)
  | .subRegReversed _ _ => (0xF00F, 0x8007)
  | .shiftLeft _ _ => (0xF00F, 0x800E)
  | .skipIfRegNotEqualsReg _ _ => (0xF00F, 0x9000)
  | .setIndexConst _ => (0xF000, 0xA000)
  | .jumpIndexed _ => (0xF000, 0xB000)
  | .randomMasked _ _ => (0xF000, 0xC000)
  | .drawSprite _ _ _ => (0xF000, 0xD000)
  | .skipIfKeyPressed _ => (0xF0FF, 0xE09E)
  | .skipIfKeyNotPressed _ => (0xF0FF, 0xE0A1)
  | .getDelayTimer _ => (0xF0FF, 0xF007)
  | .awaitKeyThenStore _ => (0xF0FF, 0xF00A)
  | .setDelayTimer _ => (0xF0FF, 0xF015)
  | .setSoundTimer _ => (0xF0FF, 0xF018)
  | .addIndexReg _ => (0xF0FF, 0xF01E)
  | .setIndexToSpriteGlyph _ => (0xF0FF, 0xF029)
  | .storeBCD _ => (0xF0FF, 0xF033)
  | .dumpRegistersToMemory _ => (0xF0FF, 0xF055)
  | .loadRegistersFromMemory _ => (0xF0FF, 0xF065)

/-- The word of the instruction matches its row of the table. -/
def Statement (i : Instr) : Prop := rowMatches (row i).1 (row i).2 (encode i)

theorem address (g : BitVec 4) (nnn : Addr) : rowMatches 0xF000 (g.toNat * 4096) (packAddress g nnn) := by
  have := nnn.isLt
  simp only [rowMatches, packAddress_toNat]
  omega

theorem regConst (g : BitVec 4) (x : RegIdx) (kk : Byte) :
    rowMatches 0xF000 (g.toNat * 4096) (packRegByte g x kk) := by
  have := kk.isLt
  simp only [rowMatches, packRegByte_toNat]
  omega

theorem reg (g : BitVec 4) (x : RegIdx) (kk : Byte) :
    rowMatches 0xF0FF (g.toNat * 4096 + kk.toNat) (packRegByte g x kk) := by
  have := kk.isLt
  simp only [rowMatches, packRegByte_toNat]
  omega

theorem regReg (g : BitVec 4) (x y : RegIdx) (n : BitVec 4) :
    rowMatches 0xF00F (g.toNat * 4096 + n.toNat) (packRegReg g x y n) := by
  have := n.isLt
  simp only [rowMatches, packRegReg_toNat]
  omega

theorem regRegNibble (g : BitVec 4) (x y : RegIdx) (n : BitVec 4) :
    rowMatches 0xF000 (g.toNat * 4096) (packRegReg g x y n) := by
  have := n.isLt
  simp only [rowMatches, packRegReg_toNat]
  omega

theorem clearDisplay : Statement .clearDisplay := by simp [Statement, rowMatches, row, encode]
theorem returnFromSubroutine : Statement .returnFromSubroutine := by simp [Statement, rowMatches, row, encode]
theorem callMachineRoutine (nnn : Addr) : Statement (.callMachineRoutine nnn) := address 0x0#4 nnn
theorem jump (nnn : Addr) : Statement (.jump nnn) := address 0x1#4 nnn
theorem callSubroutine (nnn : Addr) : Statement (.callSubroutine nnn) := address 0x2#4 nnn
theorem skipIfRegEqualsConst (x : RegIdx) (kk : Byte) : Statement (.skipIfRegEqualsConst x kk) := regConst 0x3#4 x kk
theorem skipIfRegNotEqualsConst (x : RegIdx) (kk : Byte) : Statement (.skipIfRegNotEqualsConst x kk) := regConst 0x4#4 x kk
theorem skipIfRegEqualsReg (x y : RegIdx) : Statement (.skipIfRegEqualsReg x y) := regReg 0x5#4 x y 0x0#4
theorem setRegConst (x : RegIdx) (kk : Byte) : Statement (.setRegConst x kk) := regConst 0x6#4 x kk
theorem addConstNoFlag (x : RegIdx) (kk : Byte) : Statement (.addConstNoFlag x kk) := regConst 0x7#4 x kk
theorem setRegReg (x y : RegIdx) : Statement (.setRegReg x y) := regReg 0x8#4 x y 0x0#4
theorem orReg (x y : RegIdx) : Statement (.orReg x y) := regReg 0x8#4 x y 0x1#4
theorem andReg (x y : RegIdx) : Statement (.andReg x y) := regReg 0x8#4 x y 0x2#4
theorem xorReg (x y : RegIdx) : Statement (.xorReg x y) := regReg 0x8#4 x y 0x3#4
theorem addReg (x y : RegIdx) : Statement (.addReg x y) := regReg 0x8#4 x y 0x4#4
theorem subReg (x y : RegIdx) : Statement (.subReg x y) := regReg 0x8#4 x y 0x5#4
theorem shiftRight (x y : RegIdx) : Statement (.shiftRight x y) := regReg 0x8#4 x y 0x6#4
theorem subRegReversed (x y : RegIdx) : Statement (.subRegReversed x y) := regReg 0x8#4 x y 0x7#4
theorem shiftLeft (x y : RegIdx) : Statement (.shiftLeft x y) := regReg 0x8#4 x y 0xE#4
theorem skipIfRegNotEqualsReg (x y : RegIdx) : Statement (.skipIfRegNotEqualsReg x y) := regReg 0x9#4 x y 0x0#4
theorem setIndexConst (nnn : Addr) : Statement (.setIndexConst nnn) := address 0xA#4 nnn
theorem jumpIndexed (nnn : Addr) : Statement (.jumpIndexed nnn) := address 0xB#4 nnn
theorem randomMasked (x : RegIdx) (kk : Byte) : Statement (.randomMasked x kk) := regConst 0xC#4 x kk
theorem drawSprite (x y : RegIdx) (n : BitVec 4) : Statement (.drawSprite x y n) := regRegNibble 0xD#4 x y n
theorem skipIfKeyPressed (x : RegIdx) : Statement (.skipIfKeyPressed x) := reg 0xE#4 x 0x9E#8
theorem skipIfKeyNotPressed (x : RegIdx) : Statement (.skipIfKeyNotPressed x) := reg 0xE#4 x 0xA1#8
theorem getDelayTimer (x : RegIdx) : Statement (.getDelayTimer x) := reg 0xF#4 x 0x07#8
theorem awaitKeyThenStore (x : RegIdx) : Statement (.awaitKeyThenStore x) := reg 0xF#4 x 0x0A#8
theorem setDelayTimer (x : RegIdx) : Statement (.setDelayTimer x) := reg 0xF#4 x 0x15#8
theorem setSoundTimer (x : RegIdx) : Statement (.setSoundTimer x) := reg 0xF#4 x 0x18#8
theorem addIndexReg (x : RegIdx) : Statement (.addIndexReg x) := reg 0xF#4 x 0x1E#8
theorem setIndexToSpriteGlyph (x : RegIdx) : Statement (.setIndexToSpriteGlyph x) := reg 0xF#4 x 0x29#8
theorem storeBCD (x : RegIdx) : Statement (.storeBCD x) := reg 0xF#4 x 0x33#8
theorem dumpRegistersToMemory (x : RegIdx) : Statement (.dumpRegistersToMemory x) := reg 0xF#4 x 0x55#8
theorem loadRegistersFromMemory (x : RegIdx) : Statement (.loadRegistersFromMemory x) := reg 0xF#4 x 0x65#8

end Sys2Proof.Laws.TableRow
end

