-- ==== Sys2Proof/Tests/Slice0.lean ====
section
/-! SUPPORT. The model's own tests: well-formedness smoke tests, words written out from the encodings of
30_encoding.md, single steps against 95_test_vectors.md, and a witness for the hypotheses of every statement. -/

namespace Sys2Proof.Tests

open Sys2Proof Sys2Proof.Machine

/-! ### Well-formedness -/

/-- R76: CallMachineRoutine needs w2 ≥ 2. -/
theorem test_illformed_machine_routine_low :
    (Instr.callMachineRoutine 0x1FF#12).wellFormed .literal = false ∧
      (Instr.callMachineRoutine 0x1FF#12).wellFormed .strict = false ∧
      (Instr.callMachineRoutine 0x200#12).wellFormed .literal = true := by decide

/-- R76: under `literal` a low byte E0 or EE is another instruction's. -/
theorem test_illformed_machine_routine_low_byte :
    (Instr.callMachineRoutine 0x2E0#12).wellFormed .literal = false ∧
      (Instr.callMachineRoutine 0xFEE#12).wellFormed .literal = false ∧
      (Instr.callMachineRoutine 0x2E0#12).wellFormed .strict = true := by decide

/-! ### Decoding: one word for each constructor, its bits written out from 30_encoding.md R84 -/

theorem test_decode_group_0 :
    decode .literal 0b0000000011100000#16 = .ok .clearDisplay ∧
    decode .literal 0b0000000011101110#16 = .ok .returnFromSubroutine ∧
    decode .literal 0b0000111111111111#16 = .ok (.callMachineRoutine 0xFFF#12) := by decide

theorem test_decode_groups_1_to_7 :
    decode .literal 0b0001101010111100#16 = .ok (.jump 0xABC#12) ∧
    decode .literal 0b0010000000000011#16 = .ok (.callSubroutine 0x003#12) ∧
    decode .literal 0b0011001100010010#16 = .ok (.skipIfRegEqualsConst 3 0x12#8) ∧
    decode .literal 0b0100001100010011#16 = .ok (.skipIfRegNotEqualsConst 3 0x13#8) ∧
    decode .literal 0b0101000100100000#16 = .ok (.skipIfRegEqualsReg 1 2) ∧
    decode .literal 0b0110101000010010#16 = .ok (.setRegConst 0xA 0x12#8) ∧
    decode .literal 0b0111001000000001#16 = .ok (.addConstNoFlag 2 0x01#8) := by decide

theorem test_decode_group_8 :
    decode .literal 0b1000000100110000#16 = .ok (.setRegReg 1 3) ∧
    decode .literal 0b1000000100100001#16 = .ok (.orReg 1 2) ∧
    decode .literal 0b1000000100100010#16 = .ok (.andReg 1 2) ∧
    decode .literal 0b1000000100100011#16 = .ok (.xorReg 1 2) ∧
    decode .literal 0b1000101010110100#16 = .ok (.addReg 0xA 0xB) ∧
    decode .literal 0b1000000100100101#16 = .ok (.subReg 1 2) ∧
    decode .literal 0b1000000100100110#16 = .ok (.shiftRight 1 2) ∧
    decode .literal 0b1000000100100111#16 = .ok (.subRegReversed 1 2) ∧
    decode .literal 0b1000101010111110#16 = .ok (.shiftLeft 0xA 0xB) := by decide

theorem test_decode_groups_9_to_D :
    decode .literal 0b1001101010110000#16 = .ok (.skipIfRegNotEqualsReg 0xA 0xB) ∧
    decode .literal 0b1010000100100011#16 = .ok (.setIndexConst 0x123#12) ∧
    decode .literal 0b1011000100100011#16 = .ok (.jumpIndexed 0x123#12) ∧
    decode .literal 0b1100000111110000#16 = .ok (.randomMasked 1 0xF0#8) ∧
    decode .literal 0b1101101010110100#16 = .ok (.drawSprite 0xA 0xB 4#4) := by decide

theorem test_decode_groups_E_F :
    decode .literal 0b1110000110011110#16 = .ok (.skipIfKeyPressed 1) ∧
    decode .literal 0b1110000110100001#16 = .ok (.skipIfKeyNotPressed 1) ∧
    decode .literal 0b1111000100000111#16 = .ok (.getDelayTimer 1) ∧
    decode .literal 0b1111000100001010#16 = .ok (.awaitKeyThenStore 1) ∧
    decode .literal 0b1111000000010101#16 = .ok (.setDelayTimer 0) ∧
    decode .literal 0b1111000000011000#16 = .ok (.setSoundTimer 0) ∧
    decode .literal 0b1111000000011110#16 = .ok (.addIndexReg 0) ∧
    decode .literal 0b1111000100101001#16 = .ok (.setIndexToSpriteGlyph 1) ∧
    decode .literal 0b1111001000110011#16 = .ok (.storeBCD 2) ∧
    decode .literal 0b1111001101010101#16 = .ok (.dumpRegistersToMemory 3) ∧
    decode .literal 0b1111001001100101#16 = .ok (.loadRegistersFromMemory 2) := by decide

/-- The illegal words of 95_test_vectors.md 2.1. -/
theorem test_decode_illegal_words :
    decode .literal 0x0000#16 = .error .group0 ∧ decode .literal 0x0123#16 = .error .group0 ∧
    decode .literal 0x5121#16 = .error .group5 ∧ decode .literal 0x8AB8#16 = .error .group8 ∧
    decode .literal 0x812F#16 = .error .group8 ∧ decode .literal 0x9AB1#16 = .error .group9 ∧
    decode .literal 0xE19F#16 = .error .groupE ∧ decode .literal 0xF1FF#16 = .error .groupF ∧
    decode .literal 0xF075#16 = .error .groupF := by decide

/-- The two readings of group 0, 95_test_vectors.md 2.1. -/
theorem test_decode_zero_group_readings :
    decode .literal 0x01E0#16 = .ok .clearDisplay ∧ decode .strict 0x01E0#16 = .error .group0 ∧
    decode .literal 0x01EE#16 = .ok .returnFromSubroutine ∧ decode .strict 0x01EE#16 = .error .group0 ∧
    decode .literal 0x02E0#16 = .ok .clearDisplay ∧
    decode .strict 0x02E0#16 = .ok (.callMachineRoutine 0x2E0#12) ∧
    decode .literal 0x0FEE#16 = .ok .returnFromSubroutine ∧
    decode .strict 0x0FEE#16 = .ok (.callMachineRoutine 0xFEE#12) := by decide

/-- The table's numbering: one 16-bit word, bit 0 its least significant bit. -/
theorem test_decode_table_word :
    decodeTableWord 16 0x8AB4 = some (.addReg 0xA 0xB) ∧ decodeTableWord 16 0x5121 = none := by decide

/-! ### Single steps, the expected values from 95_test_vectors.md -/

/-- The machine at creation with one word to run next (R70). -/
def ready (w : Nat) : State := State.reset.withFetchWord 16 w

/-- Whether an answer is a next state with a property. -/
def nx (f : State → Bool) : Answer → Bool
  | .next t => f t
  | _ => false

/-- Whether a cycle's answer is a next state and result with a property. -/
def cx (f : State → CycleResult → Bool) : CycleAnswer → Bool
  | .next p => f p.1 p.2
  | _ => false

/-- Whether a result is Ok, with a snapshot or none, and the sound bit. -/
def isOk (frame sound : Bool) : CycleResult → Bool
  | .ok f b => f.isSome == frame && b == sound
  | _ => false

/-- Whether a state is faulted with a kind. -/
def faultedWith (k : Fault) (t : State) : Bool := t.status == .faulted k

/-- `MEM_ADDR_OVERFLOW = fault`. -/
def checked (s : State) : State := { s with params := { s.params with memAddrOverflow := .fault } }

/-- A state with one byte of data memory written. -/
def withByte (a : Addr) (b : Byte) (s : State) : State := { s with mem := s.mem.write a b }

/-- 2.3.1: `P = [1000]` loops at 0. -/
theorem test_jump : nx (fun t => t.pc == 0) (step (ready 0x1000)) = true := by decide

/-- 2.3.2: a jump past the end returns Ok. -/
theorem test_jump_past_end : cx (fun t r => t.pc == 5 && isOk false false r) (cycle (ready 0x1005)) = true := by decide

/-- 2.3.3: V0 = 0xFF, `BFFF` gives pc = 0x10FE. -/
theorem test_jump_indexed : nx (fun t => t.pc == 0x10FE) (step ((ready 0xBFFF).setV 0 0xFF#8)) = true := by decide

/-- 2.3.6: `2000` at 0 pushes 1; depth 47 still has room. -/
theorem test_call : nx (fun t => t.stack == List.replicate 48 1 && t.pc == 0 && t.status == .running)
    (step { ready 0x2000 with stack := List.replicate 47 1 }) = true := by decide

/-- 2.3.6: the 49th call faults with depth 48 and pc = 1. -/
theorem test_call_overflow :
    nx (fun t => faultedWith .stackOverflow t && t.stack == List.replicate 48 1 && t.pc == 1)
      (step { ready 0x2000 with stack := List.replicate 48 1 }) = true := by decide

/-- 2.3.4: the return pops the top entry. -/
theorem test_return : nx (fun t => t.pc == 4 && t.stack == [1]) (step { ready 0x00EE with stack := [4, 1] }) = true := by
  decide

/-- 2.3.5: a return on an empty stack. -/
theorem test_return_underflow : cx (fun t r => faultedWith .stackUnderflow t && t.pc == 1 && r == .fault .stackUnderflow)
    (cycle (ready 0x00EE)) = true := by decide

/-- 2.4: `3312` with V3 = 0x12 skips, `3313` does not. -/
theorem test_skip_eq_const : nx (fun t => t.pc == 2) (step ((ready 0x3312).setV 3 0x12#8)) = true ∧
    nx (fun t => t.pc == 1) (step ((ready 0x3313).setV 3 0x12#8)) = true := by decide

theorem test_skip_ne_const : nx (fun t => t.pc == 1) (step ((ready 0x4312).setV 3 0x12#8)) = true ∧
    nx (fun t => t.pc == 2) (step ((ready 0x4313).setV 3 0x12#8)) = true := by decide

theorem test_skip_eq_reg : nx (fun t => t.pc == 2) (step (((ready 0x5120).setV 1 7#8).setV 2 7#8)) = true ∧
    nx (fun t => t.pc == 1) (step (((ready 0x5120).setV 1 7#8).setV 2 8#8)) = true := by decide

theorem test_skip_ne_reg : nx (fun t => t.pc == 1) (step (ready 0x9110)) = true ∧
    nx (fun t => t.pc == 2) (step (((ready 0x9120).setV 1 7#8).setV 2 8#8)) = true := by decide

/-- 2.5, row by row. -/
theorem test_set_reg_const : nx (fun t => t.getV 0xA == 0xFF#8 && t.pc == 1) (step (ready 0x6AFF)) = true := by decide

theorem test_add_const_wraps : nx (fun t => t.getV 2 == 0#8 && t.getV 15 == 0#8)
    (step ((ready 0x7201).setV 2 0xFF#8)) = true := by decide

theorem test_add_const_vf_is_data : nx (fun t => t.getV 15 == 3#8) (step ((ready 0x7F05).setV 15 0xFE#8)) = true := by
  decide

theorem test_set_reg_reg : nx (fun t => t.getV 1 == 0x44#8 && t.getV 3 == 0x44#8)
    (step ((ready 0x8130).setV 3 0x44#8)) = true := by decide

theorem test_or : nx (fun t => t.getV 1 == 0xFF#8 && t.getV 15 == 7#8)
    (step ((((ready 0x8121).setV 1 0x0F#8).setV 2 0xF0#8).setV 15 7#8)) = true := by decide

theorem test_and : nx (fun t => t.getV 1 == 0x0C#8)
    (step (((ready 0x8122).setV 1 0x3C#8).setV 2 0x0F#8)) = true := by decide

theorem test_xor : nx (fun t => t.getV 1 == 0x33#8)
    (step (((ready 0x8123).setV 1 0x3C#8).setV 2 0x0F#8)) = true := by decide

theorem test_add_reg : nx (fun t => t.getV 0xA == 0x10#8 && t.getV 15 == 1#8)
    (step (((ready 0x8AB4).setV 0xA 0xF0#8).setV 0xB 0x20#8)) = true := by decide

/-- `8F14`: the carry overwrites the sum; `81F4`: the old VF is the operand. -/
theorem test_add_reg_vf : nx (fun t => t.getV 15 == 1#8) (step (((ready 0x8F14).setV 15 0xFF#8).setV 1 1#8)) = true ∧
    nx (fun t => t.getV 1 == 0x11#8 && t.getV 15 == 0#8)
      (step (((ready 0x81F4).setV 1 0x10#8).setV 15 1#8)) = true := by decide

theorem test_sub_reg : nx (fun t => t.getV 1 == 0xFE#8 && t.getV 15 == 0#8)
    (step (((ready 0x8125).setV 1 5#8).setV 2 7#8)) = true := by decide

/-- `8F15` and `8FF5`: the flag overwrites the difference. -/
theorem test_sub_reg_vf : nx (fun t => t.getV 15 == 0#8) (step (((ready 0x8F15).setV 15 1#8).setV 1 2#8)) = true ∧
    nx (fun t => t.getV 15 == 1#8) (step ((ready 0x8FF5).setV 15 9#8)) = true := by decide

/-- 1.2: a = 0x01, b = 0xFF. -/
theorem test_sub_reg_reversed : nx (fun t => t.getV 1 == 0xFE#8 && t.getV 15 == 1#8)
    (step (((ready 0x8127).setV 1 1#8).setV 2 0xFF#8)) = true := by decide

theorem test_sub_reg_reversed_vf : nx (fun t => t.getV 15 == 0#8) (step ((ready 0x8F17).setV 15 1#8)) = true := by decide

theorem test_shift_right : nx (fun t => t.getV 1 == 1#8 && t.getV 15 == 1#8 && t.getV 2 == 0x40#8)
    (step (((ready 0x8126).setV 1 3#8).setV 2 0x40#8)) = true := by decide

theorem test_shift_left : nx (fun t => t.getV 1 == 2#8 && t.getV 15 == 1#8)
    (step ((ready 0x810E).setV 1 0x81#8)) = true := by decide

/-- `8F06` and `8F0E`: VF ends as the old bit. -/
theorem test_shifts_vf : nx (fun t => t.getV 15 == 1#8) (step ((ready 0x8F06).setV 15 3#8)) = true ∧
    nx (fun t => t.getV 15 == 1#8) (step ((ready 0x8F0E).setV 15 0x80#8)) = true := by decide

/-- 2.6, row by row. -/
theorem test_set_index : nx (fun t => t.i == 0x123#12) (step (ready 0xA123)) = true := by decide

theorem test_add_index_wraps : nx (fun t => t.i == 0x001#12 && t.getV 15 == 0#8)
    (step (((ready 0xF01E).setV 0 3#8).setI 0xFFE#12)) = true := by decide

theorem test_bcd_wraps :
    nx (fun t => t.mem == [(0x000, 5#8), (0xFFE, 2#8), (0xFFF, 5#8)] && t.i == 0xFFE#12)
      (step (((ready 0xF033).setV 0 255#8).setI 0xFFE#12)) = true := by decide

theorem test_bcd_bounds_fault :
    nx (fun t => faultedWith (.memoryBounds 0x1000) t && t.mem == [] && t.pc == 1)
      (step (checked (((ready 0xF033).setV 0 255#8).setI 0xFFE#12))) = true := by decide

theorem test_dump_wraps :
    nx (fun t => t.mem == [(0x000, 3#8), (0x001, 4#8), (0xFFE, 1#8), (0xFFF, 2#8)] && t.i == 0xFFE#12)
      (step (((((((ready 0xF355).setV 0 1#8).setV 1 2#8).setV 2 3#8).setV 3 4#8).setI 0xFFE#12))) = true := by decide

theorem test_dump_bounds_fault :
    nx (fun t => faultedWith (.memoryBounds 0x1000) t && t.mem == [])
      (step (checked (((ready 0xF355).setV 0 1#8).setI 0xFFE#12))) = true := by decide

theorem test_load : nx (fun t => t.getV 0 == 9#8 && t.getV 1 == 8#8 && t.getV 2 == 7#8 && t.getV 3 == 0x55#8)
    (step (withByte 0x200 9 (withByte 0x201 8 (withByte 0x202 7 (((ready 0xF265).setV 3 0x55#8).setI 0x200#12))))) =
      true := by decide

theorem test_load_vf : nx (fun t => t.getV 15 == 0x77#8)
    (step (withByte 0x30F 0x77 ((ready 0xFF65).setI 0x300#12))) = true := by decide

/-- 2.7 cycle 4: `F107` reads DT = 1, then it decays to 0. -/
theorem test_get_delay_timer : nx (fun t => t.getV 1 == 1#8 && t.dt == 0#8) (step { ready 0xF107 with dt := 1 }) = true := by
  decide

/-- 2.7 cycle 2: `F015` with V0 = 3 leaves DT = 2. -/
theorem test_set_delay_timer : nx (fun t => t.dt == 2#8) (step ((ready 0xF015).setV 0 3#8)) = true := by decide

/-- 2.7: V0 = 1, `F018` leaves ST = 0 and the sound bit false; V0 = 2 leaves ST = 1 and the bit true. -/
theorem test_set_sound_timer :
    cx (fun t r => t.st == 0#8 && isOk false false r) (cycle ((ready 0xF018).setV 0 1#8)) = true ∧
    cx (fun t r => t.st == 1#8 && isOk false true r) (cycle ((ready 0xF018).setV 0 2#8)) = true := by decide

/-- 2.8: `C100` sets V1 = 0 whatever PRNG_NEXT is. -/
theorem test_random_mask_zero : ∃ t, step ((ready 0xC100).setV 1 9#8) = .next t ∧ t.getV 1 = 0#8 ∧
    t.rng = Config.prngNext Config.prngInit := by
  refine ⟨_, rfl, ?_, rfl⟩
  exact BitVec.and_zero

/-- 1.5: `00E0` on a set pixel. -/
theorem test_clear_display : cx (fun t r => t.fb == Framebuffer.blank && isOk true false r)
    (cycle { ready 0x00E0 with fb := Framebuffer.blank.flip 5 5 }) = true := by decide

/-- 2.9: 0x81 at (5, 5) onto FB[5][5] = 1: the first pixel collides, the last does not, VF = 1. -/
theorem test_draw_collision :
    cx (fun t r => !(t.fb.get 5 5) && t.fb.get 12 5 && t.getV 15 == 1#8 && isOk true false r)
      (cycle (withByte 0x100 0x81 { ((((ready 0xD011).setV 0 5#8).setV 1 5#8).setI 0x100#12) with
        fb := Framebuffer.blank.flip 5 5 })) = true := by decide

/-- 2.9: 0xFF at (60, 31): columns 60 to 63 and 0 to 3. -/
theorem test_draw_wraps :
    nx (fun t => (List.range 64).all (fun c =>
        t.fb.get (Fin.ofNat 64 c) 31 == decide (60 ≤ c ∨ c ≤ 3)) && t.getV 15 == 0#8)
      (step (withByte 0x100 0xFF (((((ready 0xD121).setV 1 60#8).setV 2 31#8).setI 0x100#12)))) = true := by decide

/-- 2.10: each unimplemented instruction faults with its identity. -/
theorem test_not_implemented :
    nx (faultedWith (.notImplemented .callMachineRoutine)) (step (ready 0x0FFF)) = true ∧
    nx (faultedWith (.notImplemented .skipIfKeyPressed)) (step (ready 0xE19E)) = true ∧
    nx (faultedWith (.notImplemented .skipIfKeyNotPressed)) (step (ready 0xE1A1)) = true ∧
    nx (faultedWith (.notImplemented .awaitKeyThenStore)) (step (ready 0xF10A)) = true ∧
    nx (faultedWith (.notImplemented .setIndexToSpriteGlyph)) (step (ready 0xF129)) = true := by decide

/-- 2.2: an empty program halts, with the timers as they were. -/
theorem test_halt : cx (fun t r => t.pc == 0 && t.dt == 5#8 && t.st == 5#8 && r == .halt)
    (cycle { State.reset with dt := 5, st := 5 }) = true := by decide

/-- 2.1: creation of `[6001, 8AB8, 00E0]` fails at line 1; from text, a line of five characters fails first. -/
theorem test_create_refuses :
    create defaultParams [0x6001#16, 0x8AB8#16, 0x00E0#16] 0 = .error (.illegalWord 1 0x8AB8#16 .group8) ∧
    createFromText defaultParams ["6a0F".toList, "60011".toList, "8AB8".toList] 0 =
      .error (.malformedLine 1 "60011".toList) := ⟨rfl, rfl⟩

/-! ### Witnesses: for each statement with hypotheses, a state and operands that meet them all -/

/-- A machine created from one word (R300). -/
def machine (w : Word) (i : Instr) (stack : List Nat) (pc : Nat) (p : Params) : State :=
  { State.reset with program := [{ instr := i, word := w }], stack := stack, pc := pc, params := p }

/-- A full call stack, the pc at the store's one entry: the invariant holds and the step answers a state. -/
theorem witness_StepKeepsInvariant_full_stack :
    let s := machine 0x2000#16 (.callSubroutine 0#12) (List.replicate 48 1) 0 defaultParams
    s.Inv ∧ ∃ t, step s = .next t ∧ t.status = .faulted .stackOverflow :=
  ⟨⟨rfl, by decide, by decide, by decide, (by simp [machine]; rfl), (by intro a h; cases h), (by intro k h; cases h)⟩,
    _, rfl, rfl⟩

/-- A step that raises MemoryBounds, from a state that meets the invariant, and the largest pc of a halted one. -/
theorem witness_StepKeepsInvariant_bounds_fault :
    let s := (machine 0xFF55#16 (.dumpRegistersToMemory 15) [] 0 ⟨.strict, .fault⟩).setI 0xFFF#12
    s.Inv ∧ ∃ t, step s = .next t ∧ t.status = .faulted (.memoryBounds 0x1000) :=
  ⟨⟨rfl, by decide, (by intro p h; cases h), by decide, (by simp [machine]; rfl), (by intro a h; cases h),
    (by intro k h; cases h)⟩, _, rfl, rfl⟩

theorem witness_StepKeepsInvariant_halted :
    let s := machine 0x6000#16 (.setRegConst 0 0#8) [1] 0x10FE defaultParams
    s.Inv ∧ ∃ t, step s = .next t :=
  ⟨⟨rfl, by decide, by decide, by decide, (by simp [machine]; rfl), (by intro a h; cases h), (by intro k h; cases h)⟩, _, rfl⟩

theorem witness_CreationDecodesEveryWord :
    ∀ w ∈ [0x6001#16, 0x02E0#16, 0xF265#16], ∃ i, decode defaultParams.zeroGroupDecode w = .ok i := by
  intro w h
  simp only [List.mem_cons, List.not_mem_nil, or_false] at h
  rcases h with rfl | rfl | rfl <;> exact ⟨_, rfl⟩

theorem witness_CreationRefusesFirstIllegalWord :
    create defaultParams [0x6001#16, 0x8AB8#16, 0x5121#16] 7 = .error (.illegalWord 1 0x8AB8#16 .group8) ∧
    [0x6001#16, 0x8AB8#16, 0x5121#16][1]? = some 0x8AB8#16 ∧
    decode defaultParams.zeroGroupDecode 0x8AB8#16 = .error .group8 ∧
    ∃ i, decode defaultParams.zeroGroupDecode 0x6001#16 = .ok i := ⟨rfl, rfl, rfl, _, rfl⟩

theorem witness_TextLineIsFourHexDigits :
    parseLine ['6', 'a', '0', 'F'] = some 0x6A0F#16 ∧ parseLine ['f', 'F', 'F', 'f'] = some 0xFFFF#16 ∧
    parseLine ['6', '0', '0'] = none ∧ parseLine ['6', '0', '0', '1', '1'] = none ∧
    parseLine ['6', '0', '0', 'G'] = none ∧ parseLine ['6', '0', '0', '@'] = none ∧
    parseLine ['6', '0', '0', '`'] = none ∧ parseLine ['6', '0', '0', ':'] = none := by decide

/-- The first and last character of each range is a digit; the neighbours outside the ranges are not. -/
theorem witness_TextLineIsFourHexDigits_characters :
    (['0', '9', 'A', 'F', 'a', 'f'].all fun c => (hexDigit c).isSome) = true ∧
    (['/', ':', '@', 'G', '`', 'g', ' '].all fun c => !(hexDigit c).isSome) = true := by decide

theorem witness_TextCreatesItsWords :
    (∃ s, createFromText defaultParams [['6', '0', '0', '1'], ['0', '0', 'e', '0']] 0 = .ok s) ∧
    createFromText defaultParams [['6', '0', '0', '1'], [], ['Z']] 0 = .error (.malformedLine 1 []) ∧
    createFromText defaultParams [['6', '0', '0', '1'], ['8', 'A', 'B', '8'], ['Z']] 0 =
      .error (.illegalWord 1 0x8AB8#16 .group8) := ⟨⟨_, rfl⟩, rfl, rfl⟩

theorem witness_EncodedInstructionsDecode :
    (Instr.callMachineRoutine 0x200#12).wellFormed .literal = true ∧
    (Instr.callMachineRoutine 0xFFF#12).wellFormed .literal = true ∧
    (Instr.callMachineRoutine 0xFEE#12).wellFormed .strict = true ∧
    (Instr.drawSprite 15 15 15#4).wellFormed .literal = true := by decide

theorem witness_DecodedWordsReencode :
    decode .literal 0x0FE0#16 = .ok .clearDisplay ∧ (encode .clearDisplay).toNat = 0x0FE0 % 256 ∧
    decode .literal 0xDFFF#16 = .ok (.drawSprite 15 15 15#4) ∧
    encode (.drawSprite 15 15 15#4) = 0xDFFF#16 := by decide

theorem witness_ZeroGroupReadingsDiffer :
    decode .literal 0x01E0#16 ≠ decode .strict 0x01E0#16 ∧ decode .literal 0x0FEE#16 ≠ decode .strict 0x0FEE#16 ∧
    decode .literal 0x00E0#16 = decode .strict 0x00E0#16 ∧ decode .literal 0x00EE#16 = decode .strict 0x00EE#16 ∧
    decode .literal 0x0FEF#16 = decode .strict 0x0FEF#16 := by decide

theorem witness_GroupZeroDecodes :
    [0x00E0#16, 0x0FE0#16].all (fun w => decide (w.toNat / 4096 = 0 ∧ w.toNat % 256 = 0xE0)) = true ∧
    [0x00EE#16, 0x0FEE#16].all (fun w => decide (w.toNat / 4096 = 0 ∧ w.toNat % 256 = 0xEE)) = true ∧
    [0x0000#16, 0x01FF#16, 0x0200#16, 0x0FFF#16, 0x00DF#16, 0x02E1#16, 0x02ED#16, 0x02EF#16].all (fun w => decide (w.toNat / 4096 = 0 ∧ w.toNat % 256 ≠ 0xE0 ∧ w.toNat % 256 ≠ 0xEE)) = true ∧
    [0x01E0#16, 0x02EE#16].all (fun w => decide (w.toNat / 4096 = 0 ∧ w.toNat ≠ 0x00E0 ∧ w.toNat ≠ 0x00EE)) = true := by decide

theorem witness_GroupsOneToSevenDecode :
    [0x1000#16, 0x1FFF#16].all (fun w => decide (w.toNat / 4096 = 1)) = true ∧ [0x2000#16, 0x2FFF#16].all (fun w => decide (w.toNat / 4096 = 2)) = true ∧
    [0x3000#16, 0x3FFF#16].all (fun w => decide (w.toNat / 4096 = 3)) = true ∧ [0x4000#16, 0x4FFF#16].all (fun w => decide (w.toNat / 4096 = 4)) = true ∧
    [0x5000#16, 0x5FF0#16].all (fun w => decide (w.toNat / 4096 = 5 ∧ w.toNat % 16 = 0)) = true ∧
    [0x5001#16, 0x5FFF#16].all (fun w => decide (w.toNat / 4096 = 5 ∧ w.toNat % 16 ≠ 0)) = true ∧
    [0x6000#16, 0x6FFF#16].all (fun w => decide (w.toNat / 4096 = 6)) = true ∧ [0x7000#16, 0x7FFF#16].all (fun w => decide (w.toNat / 4096 = 7)) = true := by
  decide

theorem witness_GroupEightDecodes :
    ∀ n ∈ List.range 16, (BitVec.ofNat 16 (0x8FF0 + n)).toNat / 4096 = 8 ∧
      (BitVec.ofNat 16 (0x8FF0 + n)).toNat % 16 = n := by decide

theorem witness_GroupsNineToThirteenDecode :
    [0x9000#16, 0x9FF0#16].all (fun w => decide (w.toNat / 4096 = 0x9 ∧ w.toNat % 16 = 0)) = true ∧
    [0x9001#16, 0x9FFF#16].all (fun w => decide (w.toNat / 4096 = 0x9 ∧ w.toNat % 16 ≠ 0)) = true ∧
    [0xA000#16, 0xAFFF#16].all (fun w => decide (w.toNat / 4096 = 0xA)) = true ∧ [0xB000#16, 0xBFFF#16].all (fun w => decide (w.toNat / 4096 = 0xB)) = true ∧
    [0xC000#16, 0xCFFF#16].all (fun w => decide (w.toNat / 4096 = 0xC)) = true ∧ [0xD000#16, 0xDFFF#16].all (fun w => decide (w.toNat / 4096 = 0xD)) = true := by
  decide

theorem witness_GroupsFourteenAndFifteenDecode :
    (∀ kk ∈ [0x9E, 0xA1, 0x00, 0x9F, 0xFF], (BitVec.ofNat 16 (0xEF00 + kk)).toNat / 4096 = 0xE ∧
      (BitVec.ofNat 16 (0xEF00 + kk)).toNat % 256 = kk) ∧
    (∀ kk ∈ [0x07, 0x0A, 0x15, 0x18, 0x1E, 0x29, 0x33, 0x55, 0x65, 0x00, 0x75, 0xFF],
      (BitVec.ofNat 16 (0xFF00 + kk)).toNat / 4096 = 0xF ∧ (BitVec.ofNat 16 (0xFF00 + kk)).toNat % 256 = kk) := by decide

/-- Both outcomes of the instruction a step runs: completed, and faulted. -/
theorem witness_StepRunsFetchedInstruction :
    ((ready 0x6001).status = .running ∧
      (ready 0x6001).program[(ready 0x6001).pc]? = some ⟨.setRegConst 0 1#8, 0x6001#16⟩ ∧
      ∃ t, exec (.setRegConst 0 1#8) { ready 0x6001 with frameChanged := false, pc := 1 } = .next t ∧
        t.status = .running) ∧
    ((ready 0x00EE).status = .running ∧
      (ready 0x00EE).program[(ready 0x00EE).pc]? = some ⟨.returnFromSubroutine, 0x00EE#16⟩ ∧
      ∃ t, exec .returnFromSubroutine { ready 0x00EE with frameChanged := false, pc := 1 } = .next t ∧
        t.status = .faulted .stackUnderflow) :=
  ⟨⟨rfl, rfl, _, rfl, rfl⟩, rfl, rfl, _, rfl, rfl⟩

/-- A store that the pc is past the end of, and one with an entry at the pc. -/
theorem witness_PlacedWordIsFetched :
    decode State.reset.params.zeroGroupDecode 0x8AB4#16 = .ok (.addReg 0xA 0xB) ∧
    ((State.reset.setPc 2).withFetchWord 16 0x8AB4).program.length = 3 ∧
    ((ready 0x6001).withFetchWord 16 0x8AB4).program = [⟨.addReg 0xA 0xB, 0x8AB4#16⟩] := ⟨rfl, rfl, rfl⟩

/-- The first index past the end, and one far past it. -/
theorem witness_HaltedCycleReturnsHalt :
    ((ready 0x6001).setPc 1).status = .running ∧
    ((ready 0x6001).setPc 1).program.length ≤ ((ready 0x6001).setPc 1).pc ∧
    ((ready 0x6001).setPc 0x10FE).program.length ≤ ((ready 0x6001).setPc 0x10FE).pc := by decide

theorem witness_FaultedCoreIsFinal :
    (State.reset.raise .stackOverflow).status = .faulted .stackOverflow ∧
    (State.reset.raise (.notImplemented .awaitKeyThenStore)).status = .faulted (.notImplemented .awaitKeyThenStore) ∧
    (State.reset.raise (.memoryBounds 0x1000)).status = .faulted (.memoryBounds 0x1000) := by decide

/-- A cycle of each kind: no frame, a cleared frame, a drawn frame, a fault. -/
theorem witness_CycleReportsFrameAndSound :
    (∃ t r, cycle (ready 0x6001) = .next (t, r) ∧ t.status = .running ∧ t.frameChanged = false) ∧
    (∃ t r, cycle (ready 0x00E0) = .next (t, r) ∧ t.status = .running ∧ t.frameChanged = true) ∧
    (∃ t r, cycle (ready 0xD000) = .next (t, r) ∧ t.status = .running ∧ t.frameChanged = true) ∧
    (∃ t r, cycle (ready 0xF10A) = .next (t, r) ∧ t.status = .faulted (.notImplemented .awaitKeyThenStore)) :=
  ⟨⟨_, _, rfl, rfl, rfl⟩, ⟨_, _, rfl, rfl, rfl⟩, ⟨_, _, rfl, rfl, rfl⟩, _, _, rfl, rfl⟩

theorem witness_EveryCycleAnswers : (ready 0x6001).status = .running := by decide

theorem witness_RaisedFaultIsPrecise :
    (ready 0x00EE).status = .running ∧
    (ready 0x00EE).program[(ready 0x00EE).pc]? = some ⟨.returnFromSubroutine, 0x00EE#16⟩ ∧
    ∃ t, exec .returnFromSubroutine { ready 0x00EE with frameChanged := false, pc := 1 } = .next t ∧
      t.status = .faulted .stackUnderflow := ⟨rfl, rfl, _, rfl, rfl⟩

/-- Each fault at the boundary of its condition: 48 entries and 47; 3 bytes from 0xFFE and from 0xFFD. -/
theorem witness_FaultsRaisedOnlyWhereNamed :
    nx (faultedWith .stackOverflow) (exec (.callSubroutine 0#12) { State.reset with stack := List.replicate 48 1 }) =
      true ∧
    nx (fun t => t.status == .running)
      (exec (.callSubroutine 0#12) { State.reset with stack := List.replicate 47 1 }) = true ∧
    nx (faultedWith .stackUnderflow) (exec .returnFromSubroutine State.reset) = true ∧
    nx (faultedWith (.memoryBounds 0x1000)) (exec (.storeBCD 0) (checked (State.reset.setI 0xFFE#12))) = true ∧
    nx (fun t => t.status == .running) (exec (.storeBCD 0) (checked (State.reset.setI 0xFFD#12))) = true := by decide

/-- The first I for which each memory instruction reaches past 0xFFF. -/
theorem witness_BoundsFaultChangesNothing :
    (checked (State.reset.setI 0xFFE#12)).params.memAddrOverflow = .fault ∧
    0x1000 < (State.reset.setI 0xFFE#12).i.toNat + (Instr.storeBCD 0).touches ∧
    0x1000 < (State.reset.setI 0xFF1#12).i.toNat + (Instr.dumpRegistersToMemory 15).touches ∧
    0x1000 < (State.reset.setI 0xFF1#12).i.toNat + (Instr.loadRegistersFromMemory 15).touches ∧
    0x1000 < (State.reset.setI 0xFF2#12).i.toNat + (Instr.drawSprite 0 0 15#4).touches := by decide

/-- A cycle that writes each timer, and one that writes none. -/
theorem witness_TimersDecayOncePerCycle :
    (∃ t f b, cycle ((ready 0xF015).setV 0 255#8) = .next (t, .ok f b) ∧ t.dt = 254#8) ∧
    (∃ t f b, cycle ((ready 0xF018).setV 0 0#8) = .next (t, .ok f b) ∧ t.st = 0#8) ∧
    (∃ t f b, cycle { ready 0x6001 with dt := 1, st := 0 } = .next (t, .ok f b) ∧ t.dt = 0#8 ∧ t.st = 0#8) :=
  ⟨⟨_, _, _, rfl, rfl⟩, ⟨_, _, _, rfl, rfl⟩, _, _, _, rfl, rfl, rfl⟩

theorem witness_StoresNeverReachFetch :
    (∃ t, step (ready 0xF055) = .next t) ∧ ∃ t, exec (.dumpRegistersToMemory 15) State.reset = .next t :=
  ⟨⟨_, rfl⟩, _, rfl⟩

/-- Each element of the state does change under one of its writers. -/
theorem witness_StateElementsHaveNamedWriters :
    nx (fun t => t.i != 0) (exec (.setIndexConst 0xFFF#12) State.reset) = true ∧
    nx (fun t => t.i != 0) (exec (.addIndexReg 0) (State.reset.setV 0 1#8)) = true ∧
    nx (fun t => t.stack != []) (exec (.callSubroutine 0#12) State.reset) = true ∧
    nx (fun t => t.stack != [7]) (exec .returnFromSubroutine { State.reset with stack := [7] }) = true ∧
    nx (fun t => t.dt != 0) (exec (.setDelayTimer 0) (State.reset.setV 0 1#8)) = true ∧
    nx (fun t => t.st != 0) (exec (.setSoundTimer 0) (State.reset.setV 0 1#8)) = true ∧
    nx (fun t => t.frameChanged && t.fb.get 0 0)
      (exec (.drawSprite 0 0 1#4) (withByte 0 0x80 State.reset)) = true ∧
    nx (fun t => t.frameChanged && !(t.fb.get 0 0))
      (exec .clearDisplay { State.reset with fb := Framebuffer.blank.flip 0 0 }) = true ∧
    nx (fun t => t.mem.read 2 != 0) (exec (.storeBCD 0) (State.reset.setV 0 9#8)) = true ∧
    nx (fun t => t.mem.read 0xF != 0) (exec (.dumpRegistersToMemory 15) (State.reset.setV 15 1#8)) = true := by decide

theorem witness_StateElementsHaveNamedWriters_rng :
    (∃ t, exec .clearDisplay State.reset = .next t) ∧ ∀ x kk, Instr.clearDisplay ≠ .randomMasked x kk :=
  ⟨⟨_, rfl⟩, by intro x kk h; cases h⟩

/-- A destination, a loaded register, VF as a flag, and a flag-producing instruction that completes. -/
theorem witness_RegistersHaveNamedWriters :
    nx (fun t => t.getV 15 != 0) (exec (.setRegConst 15 1#8) State.reset) = true ∧
    nx (fun t => t.getV 0 != 0) (exec (.loadRegistersFromMemory 0) (withByte 0 9 State.reset)) = true ∧
    nx (fun t => t.getV 15 != 0 && t.status == .running) (exec (.subReg 0 1) State.reset) = true := by decide

theorem witness_GeneratorUnseenByOthers :
    (∀ d x kk, (ready 0x6001).program[(ready 0x6001).pc]? = some d → d.instr ≠ .randomMasked x kk) ∧
    ∃ t res, cycle (ready 0x6001) = .next (t, res) := by
  refine ⟨?_, _, _, rfl⟩
  intro d x kk h
  have h' : (⟨.setRegConst 0 1#8, 0x6001#16⟩ : Decoded) = d := Option.some.inj h
  subst h'
  intro e
  cases e

/-- Words under the masks of the encodings that a statement names, at both ends of their fields. -/
theorem witness_encodings_under_masks :
    0x1000#16 &&& 0xF000 = 0x1000#16 ∧ 0x1FFF#16 &&& 0xF000 = 0x1000#16 ∧ 0x6FFF#16 &&& 0xF000 = 0x6000#16 ∧
    0x7FFF#16 &&& 0xF000 = 0x7000#16 ∧ 0x8FF0#16 &&& 0xF00F = 0x8000#16 ∧ 0x8FF1#16 &&& 0xF00F = 0x8001#16 ∧
    0x8FF2#16 &&& 0xF00F = 0x8002#16 ∧ 0x8FF3#16 &&& 0xF00F = 0x8003#16 ∧ 0xAFFF#16 &&& 0xF000 = 0xA000#16 ∧
    0xCFFF#16 &&& 0xF000 = 0xC000#16 ∧ 0x00E0#16 &&& 0xFFFF = 0x00E0#16 ∧ 0x0FE0#16 &&& 0xF0FF = 0x00E0#16 := by decide

/-- A jump of a running core to the first index past the end. -/
theorem witness_JumpSetsPc :
    (ready 0x1001).status = .running ∧ (ready 0x1001).program.length ≤ (0x001#12).toNat := by decide

theorem witness_CallPushesReturnIndex :
    ({ State.reset with stack := List.replicate 47 1 } : State).stack.length < 48 ∧
    48 ≤ ({ State.reset with stack := List.replicate 48 1 } : State).stack.length := by decide

theorem witness_ReturnPopsIntoPc :
    ({ State.reset with stack := [4, 1] } : State).stack = 4 :: [1] ∧ State.reset.stack = [] := by decide

/-- A subroutine that changed registers and jumped about, its stack as the call left it. -/
theorem witness_ReturnUndoesMatchingCall :
    State.reset.stack.length < 48 ∧
    ∃ t, exec (.callSubroutine 5#12) State.reset = .next t ∧
      ((State.reset.setV 0 9#8).setPc 77 |>.push 0).stack = t.stack := ⟨by decide, _, rfl, rfl⟩

theorem witness_TakenSkipPassesOneEntry :
    (∀ w ∈ [0x3312, 0x4312, 0x5120, 0x9120], (ready w).status = .running) ∧
    (ready 0x3312).fetch = some ⟨.skipIfRegEqualsConst 3 0x12#8, 0x3312#16⟩ ∧
    (ready 0x4312).fetch = some ⟨.skipIfRegNotEqualsConst 3 0x12#8, 0x4312#16⟩ ∧
    (ready 0x5120).fetch = some ⟨.skipIfRegEqualsReg 1 2, 0x5120#16⟩ ∧
    (ready 0x9120).fetch = some ⟨.skipIfRegNotEqualsReg 1 2, 0x9120#16⟩ := by decide

/-- A destination other than VF, as the flag statements ask for in one clause. -/
theorem witness_flag_statements_destination : (14 : RegIdx) ≠ 15 := by decide

/-- The addresses of StoreBCD at both edges: the last I without wrap, checked, and one that wraps; and a byte
outside them. -/
theorem witness_StoreBCDWritesDigits :
    (checked (State.reset.setI 0xFFD#12)).CanTouch 3 ∧ (State.reset.setI 0xFFE#12).CanTouch 3 ∧
    (checked (State.reset.setI 0xFFD#12)).ea 2 = .ok 0xFFF#12 ∧
    (State.reset.setI 0xFFE#12).ea 0 = .ok 0xFFE#12 ∧ (State.reset.setI 0xFFE#12).ea 1 = .ok 0xFFF#12 ∧
    (State.reset.setI 0xFFE#12).ea 2 = .ok 0x000#12 ∧
    ∀ k, k < 3 → (State.reset.setI 0xFFE#12).ea k ≠ .ok 0x001#12 :=
  ⟨.inr (by decide), .inl rfl, by decide, by decide, by decide, by decide, by decide⟩

/-- All sixteen registers at both edges; a byte outside; a register above x. -/
theorem witness_DumpWritesRegisters :
    (checked (State.reset.setI 0xFF0#12)).CanTouch ((15 : RegIdx).val + 1) ∧
    (State.reset.setI 0xFFF#12).CanTouch ((15 : RegIdx).val + 1) ∧
    (checked (State.reset.setI 0xFF0#12)).ea 15 = .ok 0xFFF#12 ∧ (State.reset.setI 0xFFF#12).ea 15 = .ok 0x00E#12 ∧
    ∀ k, k ≤ 15 → (State.reset.setI 0xFFF#12).ea k ≠ .ok 0x00F#12 :=
  ⟨.inr (by decide), .inl rfl, by decide, by decide, by decide⟩

theorem witness_LoadReadsRegisters :
    (State.reset.setI 0xFFF#12).CanTouch ((1 : RegIdx).val + 1) ∧ (State.reset.setI 0xFFF#12).ea 1 = .ok 0x000#12 ∧
    (1 : RegIdx) ≤ 1 ∧ (1 : RegIdx) < 2 := ⟨.inl rfl, by decide, by decide, by decide⟩

theorem witness_LoadUndoesDump :
    (State.reset.setI 0x400#12).CanTouch ((15 : RegIdx).val + 1) ∧
    ∃ t, exec (.dumpRegistersToMemory 15) (State.reset.setI 0x400#12) = .next t ∧
      (t.setV 3 9#8).mem = t.mem ∧ (t.setV 3 9#8).i = (State.reset.setI 0x400#12).i ∧
      (t.setV 3 9#8).params = (State.reset.setI 0x400#12).params := ⟨.inl rfl, _, rfl, rfl, rfl, rfl⟩

theorem witness_RandomMaskedDrawsOnce : (0x7F#8).getLsbD 7 = false ∧ (0x7F#8).getLsbD 8 = false := by decide

/-- A state whose sprite covers a set pixel: one row 0x80 at (63, 31). -/
def sprite : State :=
  withByte 0xFFF 0x80 ((((State.reset.setV 0 63#8).setV 1 31#8)).setI 0xFFF#12)

theorem witness_DrawSpriteFlipsAndCollides :
    (checked sprite).CanTouch (1#4).toNat ∧ sprite.CanTouch (15#4).toNat ∧ sprite.SpritePixel 0 1 1#4 63 31 ∧
    ¬ sprite.SpritePixel 0 1 0#4 0 0 ∧
    ({ sprite with fb := Framebuffer.blank.flip 63 31 } : State).fb.get 63 31 = true ∧
    ∀ c r, sprite.fb.get c r = false := by
  refine ⟨.inr (by decide), .inl rfl, ⟨0, 0, by decide, by decide, by decide, by decide, 0xFFF#12, by decide, by decide⟩,
    ?_, by decide, fun c r => Framebuffer.get_blank c r⟩
  rintro ⟨row, col, h, -⟩
  exact absurd h (Nat.not_lt_zero row)

theorem witness_SecondDrawRestoresFrame :
    sprite.CanTouch (1#4).toNat ∧ ∃ t, exec (.drawSprite 0 1 1#4) sprite = .next t ∧
      t.getV 0 = sprite.getV 0 ∧ t.getV 1 = sprite.getV 1 ∧ t.mem = sprite.mem ∧ t.i = sprite.i ∧
      t.params = sprite.params := ⟨.inl rfl, _, rfl, rfl, rfl, rfl, rfl, rfl⟩

theorem witness_UnimplementedInstructionsRaise :
    Unimplemented.callMachineRoutine.isRaisedBy (.callMachineRoutine 0xFFF#12) ∧
    Unimplemented.skipIfKeyPressed.isRaisedBy (.skipIfKeyPressed 0) ∧
    Unimplemented.skipIfKeyNotPressed.isRaisedBy (.skipIfKeyNotPressed 15) ∧
    Unimplemented.awaitKeyThenStore.isRaisedBy (.awaitKeyThenStore 0) ∧
    Unimplemented.setIndexToSpriteGlyph.isRaisedBy (.setIndexToSpriteGlyph 15) :=
  ⟨⟨_, rfl⟩, ⟨_, rfl⟩, ⟨_, rfl⟩, ⟨_, rfl⟩, _, rfl⟩

end Sys2Proof.Tests
end

/-! What one instruction can do, said once: the faults an instruction raises, the states it completes with, and that
`exec` always does one of the two. The statements about writers and the invariant go through this case list. -/

namespace Sys2Proof.Machine

/-- In state `s` the instruction raises the fault (60_exceptions.md R270), under the condition that R131, R132, R260
and R52 name. -/
inductive State.Raises (s : State) : Instr → Fault → Prop
  | notImplemented {i : Instr} {u : Unimplemented} (raisedBy : u.isRaisedBy i) : s.Raises i (.notImplemented u)
  | stackOverflow (nnn : Addr) (full : 48 ≤ s.stack.length) : s.Raises (.callSubroutine nnn) .stackOverflow
  | stackUnderflow (empty : s.stack = []) : s.Raises .returnFromSubroutine .stackUnderflow
  | memoryBounds {i : Instr} (past : ¬ s.CanTouch i.touches) : s.Raises i (.memoryBounds 4096)

/-- The instruction completes in state `s` and leaves the given state: one constructor per shape of effect, with the
instructions that have it. The values written are left open, but for what the invariant and the flags need. -/
inductive State.Completes (s : State) : Instr → State → Prop
  | register {i : Instr} {x : RegIdx} (b : Byte) (dest : i.destination = some x) (noFlag : i.producesFlag = false) :
      s.Completes i (s.setV x b)
  | random (x : RegIdx) (kk b : Byte) :
      s.Completes (.randomMasked x kk) ({ s with rng := Config.prngNext s.rng }.setV x b)
  | resultAndFlag {i : Instr} {x : RegIdx} (result : Byte) (flag : Bool) (dest : i.destination = some x)
      (isFlag : i.producesFlag = true) : s.Completes i (s.setResultAndFlag x result (flagByte flag))
  | goto {i : Instr} {p : Nat} (bound : p ≤ 0x10FE ∨ p ≤ s.pc + 1) (noFlag : i.producesFlag = false) :
      s.Completes i (s.setPc p)
  | call (nnn : Addr) (room : s.stack.length < 48) :
      s.Completes (.callSubroutine nnn) ((s.push s.pc).setPc (targetOf nnn))
  | ret {top : Nat} {rest : List Nat} (nonempty : s.stack = top :: rest) :
      s.Completes .returnFromSubroutine { s with stack := rest, pc := top }
  | setIndex (nnn a : Addr) : s.Completes (.setIndexConst nnn) (s.setI a)
  | addIndex (x : RegIdx) (a : Addr) : s.Completes (.addIndexReg x) (s.setI a)
  | delay (x : RegIdx) (b : Byte) : s.Completes (.setDelayTimer x) { s with dt := b }
  | sound (x : RegIdx) (b : Byte) : s.Completes (.setSoundTimer x) { s with st := b }
  | clear : s.Completes .clearDisplay { s with fb := Framebuffer.blank, frameChanged := true }
  | draw (x y : RegIdx) (n : BitVec 4) (fb : Framebuffer) (flag : Bool) :
      s.Completes (.drawSprite x y n) ({ s with fb := fb, frameChanged := true }.setV regF (flagByte flag))
  | storeDigits (x : RegIdx) (l : List (Addr × Byte)) :
      s.Completes (.storeBCD x) { s with mem := s.mem.writeAll l }
  | dump (x : RegIdx) (l : List (Addr × Byte)) :
      s.Completes (.dumpRegistersToMemory x) { s with mem := s.mem.writeAll l }
  | load (x : RegIdx) {as : List Addr} (len : as.length = x.val + 1) :
      s.Completes (.loadRegistersFromMemory x) { s with v := loadRegs s.mem 0 as s.v }

/-- The two ends of an instruction: a raised fault, or completion. -/
def State.Effect (s : State) (i : Instr) (t : State) : Prop :=
  (∃ f, s.Raises i f ∧ t = s.raise f) ∨ s.Completes i t

variable {s t : State} {i : Instr}

theorem State.Raises.effect {f : Fault} (h : s.Raises i f) : s.Effect i (s.raise f) := .inl ⟨f, h, rfl⟩

theorem State.effect_notImplemented (u : Unimplemented) (raisedBy : u.isRaisedBy i) :
    s.Effect i (s.raise (.notImplemented u)) := (Raises.notImplemented raisedBy).effect

theorem State.Completes.effect (h : s.Completes i t) : s.Effect i t := .inr h

/-! ### Every instruction has an effect of the list -/

theorem State.skipIf_eq_setPc (s : State) (b : Bool) : s.skipIf b = s.setPc (if b then s.pc + 1 else s.pc) := by
  cases b <;> rfl

theorem State.effect_skipIf (b : Bool) (noFlag : i.producesFlag = false) : s.Effect i (s.skipIf b) := by
  rw [State.skipIf_eq_setPc]
  refine (Completes.goto (.inr ?_) noFlag).effect
  cases b <;> simp

theorem indexedTarget_le (s : State) (nnn : Addr) : indexedTarget s nnn ≤ 0x10FE := by
  have hV := (s.getV 0).isLt
  have hn := nnn.isLt
  unfold indexedTarget
  omega

theorem targetOf_le (nnn : Addr) : targetOf nnn ≤ 0x10FE := by
  have hn := nnn.isLt
  unfold targetOf
  omega

theorem withAddrs_effect {effect : List Addr → State}
    (completes : ∀ as, as.length = i.touches → s.Completes i (effect as)) :
    ∃ t, s.withAddrs i.touches effect = .next t ∧ s.Effect i t := by
  by_cases h : s.CanTouch i.touches
  · exact ⟨_, State.withAddrs_of_canTouch h effect, (completes _ (by simp)).effect⟩
  · exact ⟨_, (State.withAddrs_eq s _ effect).trans (if_neg h), (State.Raises.memoryBounds h).effect⟩

theorem execCallSubroutine_effect (nnn : Addr) (s : State) :
    ∃ t, execCallSubroutine nnn s = .next t ∧ s.Effect (.callSubroutine nnn) t := by
  by_cases h : 48 ≤ s.stack.length
  · exact ⟨_, if_pos h, (State.Raises.stackOverflow nnn h).effect⟩
  · exact ⟨_, if_neg h, (State.Completes.call nnn (Nat.lt_of_not_le h)).effect⟩

theorem execReturnFromSubroutine_effect (s : State) :
    ∃ t, execReturnFromSubroutine s = .next t ∧ s.Effect .returnFromSubroutine t := by
  unfold execReturnFromSubroutine
  cases h : s.stack with
  | nil => exact ⟨_, rfl, (State.Raises.stackUnderflow h).effect⟩
  | cons top rest => exact ⟨_, rfl, (State.Completes.ret h).effect⟩

/-- `exec` answers a next state for every instruction, and that state is one the list names. -/
theorem exec_effect (i : Instr) (s : State) : ∃ t, exec i s = .next t ∧ s.Effect i t := by
  cases i with
  | clearDisplay => exact ⟨_, rfl, State.Completes.clear.effect⟩
  | returnFromSubroutine => exact execReturnFromSubroutine_effect s
  | callMachineRoutine nnn => exact ⟨_, rfl, State.effect_notImplemented .callMachineRoutine ⟨nnn, rfl⟩⟩
  | jump nnn => exact ⟨_, rfl, (State.Completes.goto (.inl (targetOf_le nnn)) rfl).effect⟩
  | callSubroutine nnn => exact execCallSubroutine_effect nnn s
  | skipIfRegEqualsConst | skipIfRegNotEqualsConst | skipIfRegEqualsReg | skipIfRegNotEqualsReg =>
    exact ⟨_, rfl, State.effect_skipIf _ rfl⟩
  | setRegConst | addConstNoFlag | setRegReg | orReg | andReg | xorReg | getDelayTimer =>
    exact ⟨_, rfl, (State.Completes.register _ rfl rfl).effect⟩
  | addReg | subReg | shiftRight | subRegReversed | shiftLeft =>
    exact ⟨_, rfl, (State.Completes.resultAndFlag _ _ rfl rfl).effect⟩
  | setIndexConst nnn => exact ⟨_, rfl, (State.Completes.setIndex nnn _).effect⟩
  | jumpIndexed nnn => exact ⟨_, rfl, (State.Completes.goto (.inl (indexedTarget_le s nnn)) rfl).effect⟩
  | randomMasked x kk => exact ⟨_, rfl, (State.Completes.random x kk _).effect⟩
  | drawSprite x y n => exact withAddrs_effect fun as _ => .draw x y n _ _
  | skipIfKeyPressed x => exact ⟨_, rfl, State.effect_notImplemented .skipIfKeyPressed ⟨x, rfl⟩⟩
  | skipIfKeyNotPressed x => exact ⟨_, rfl, State.effect_notImplemented .skipIfKeyNotPressed ⟨x, rfl⟩⟩
  | awaitKeyThenStore x => exact ⟨_, rfl, State.effect_notImplemented .awaitKeyThenStore ⟨x, rfl⟩⟩
  | setDelayTimer x => exact ⟨_, rfl, (State.Completes.delay x _).effect⟩
  | setSoundTimer x => exact ⟨_, rfl, (State.Completes.sound x _).effect⟩
  | addIndexReg x => exact ⟨_, rfl, (State.Completes.addIndex x _).effect⟩
  | setIndexToSpriteGlyph x => exact ⟨_, rfl, State.effect_notImplemented .setIndexToSpriteGlyph ⟨x, rfl⟩⟩
  | storeBCD x => exact withAddrs_effect fun as _ => .storeDigits x _
  | dumpRegistersToMemory x => exact withAddrs_effect fun as _ => .dump x _
  | loadRegistersFromMemory x => exact withAddrs_effect fun as len => .load x len

/-- All an instruction that answers a next state can have done. -/
theorem exec_cases (h : exec i s = .next t) : s.Effect i t := by
  obtain ⟨u, hu, he⟩ := exec_effect i s
  obtain rfl : u = t := Host.Outcome.next.inj (hu.symm.trans h)
  exact he

/-! ### What completion keeps, and what it writes to memory, stack and pc -/

namespace State.Completes

theorem status_eq (h : s.Completes i t) : t.status = s.status := by cases h <;> rfl

theorem program_eq (h : s.Completes i t) : t.program = s.program := by cases h <;> rfl

theorem params_eq (h : s.Completes i t) : t.params = s.params := by cases h <;> rfl

theorem memCanonical (h : s.Completes i t) (wf : Memory.wf s.mem = true) : Memory.wf t.mem = true := by
  cases h with
  | storeDigits x l => exact Memory.wf_writeAll s.mem l wf
  | dump x l => exact Memory.wf_writeAll s.mem l wf
  | _ => exact wf

/-- The stack is kept, pushed with the pc where there is room, or popped. -/
theorem stack_cases (h : s.Completes i t) :
    t.stack = s.stack ∨ (t.stack = s.pc :: s.stack ∧ s.stack.length < 48) ∨ ∃ top, s.stack = top :: t.stack := by
  cases h with
  | call nnn room => exact .inr (.inl ⟨rfl, room⟩)
  | ret nonempty => exact .inr (.inr ⟨_, nonempty⟩)
  | _ => exact .inl rfl

/-- The pc is a target the encoding can name, at most one entry further, or an entry popped from the stack. -/
theorem pc_cases (h : s.Completes i t) : t.pc ≤ 0x10FE ∨ t.pc ≤ s.pc + 1 ∨ t.pc ∈ s.stack := by
  cases h with
  | goto bound => exact bound.imp_right .inl
  | call nnn => exact .inl (targetOf_le nnn)
  | ret nonempty => exact .inr (.inr (by simp [nonempty]))
  | _ => exact .inr (.inl (Nat.le_succ s.pc))

end State.Completes

/-- A MemoryBounds fault is raised only under its parameter, and records 0x1000. -/
theorem State.Raises.of_memoryBounds {a : Nat} (h : s.Raises i (.memoryBounds a)) :
    s.params.memAddrOverflow = .fault ∧ a = 4096 := by
  cases h with
  | memoryBounds past =>
    refine ⟨?_, rfl⟩
    cases hm : s.params.memAddrOverflow with
    | wrap => exact absurd (.inl hm) past
    | fault => rfl

/-! ### The invariant over the parts of a step -/

namespace State.Inv

theorem clearFrameChanged (h : s.Inv) : s.clearFrameChanged.Inv :=
  { h with faultedFrame := fun _ _ => rfl }

theorem decay (h : s.Inv) : s.decay.Inv := { h with }

theorem finish (h : s.Inv) : s.finish.Inv := by
  cases hs : s.status with
  | running => rw [finish_of_running hs]; exact h.decay
  | faulted k => rw [finish_of_faulted hs]; exact h

/-- Preparing an instruction that is there to be fetched. -/
theorem begin (h : s.Inv) (hpc : s.pc < s.program.length) : s.begin.Inv :=
  { h with
    pcBound := le_max_of_le_right (Nat.succ_le_succ hpc.le)
    faultedFrame := fun _ _ => rfl }

/-- A fault keeps the invariant where the frame flag is clear, as it is during a cycle (R112). -/
theorem raise {f : Fault} (h : s.Inv) (hframe : s.frameChanged = false) (hf : s.Raises i f) : (s.raise f).Inv :=
  { h with
    boundsFault := fun a ha => by
      obtain rfl : f = .memoryBounds a := Status.faulted.inj ha
      obtain ⟨hmode, rfl⟩ := hf.of_memoryBounds
      exact ⟨hmode, by decide, by decide⟩
    faultedFrame := fun _ _ => hframe }

/-- Completion keeps the invariant where the pc is the index after an entry of the store, as it is while an
instruction runs (R115). -/
theorem completes (h : s.Inv) (hrun : s.status = .running) (hpos : 1 ≤ s.pc) (hle : s.pc ≤ s.program.length)
    (hc : s.Completes i t) : t.Inv := by
  have hstatus : t.status = .running := hc.status_eq.trans hrun
  have hprogram := hc.program_eq
  refine
    { memCanonical := hc.memCanonical h.memCanonical
      stackDepth := ?_
      stackEntries := ?_
      pcBound := ?_
      programDecoded := by rw [hprogram, hc.params_eq]; exact h.programDecoded
      boundsFault := fun a ha => by simp [hstatus] at ha
      faultedFrame := fun k hk => by simp [hstatus] at hk }
  · have hdepth := h.stackDepth
    obtain heq | ⟨heq, hroom⟩ | ⟨top, heq⟩ := hc.stack_cases
    · rwa [heq]
    · rw [heq]; exact hroom
    · rw [heq] at hdepth; exact (Nat.le_succ _).trans hdepth
  · have hentries := h.stackEntries
    rw [hprogram]
    obtain heq | ⟨heq, -⟩ | ⟨top, heq⟩ := hc.stack_cases
    · rwa [heq]
    · rw [heq]; exact List.forall_mem_cons.2 ⟨⟨hpos, hle⟩, hentries⟩
    · rw [heq] at hentries; exact (List.forall_mem_cons.1 hentries).2
  · rw [hprogram]
    obtain hp | hp | hp := hc.pc_cases
    · exact le_max_of_le_left hp
    · exact le_max_of_le_right (hp.trans (Nat.succ_le_succ hle))
    · exact le_max_of_le_right ((h.stackEntries _ hp).2.trans (Nat.le_succ _))

/-- An instruction keeps the invariant in the state a cycle has prepared for it. -/
theorem exec_begin (h : s.Inv) (hrun : s.status = .running) (hpc : s.pc < s.program.length)
    (he : exec i s.begin = .next t) : t.Inv := by
  obtain ⟨f, hf, rfl⟩ | hc := exec_cases he
  · exact (h.begin hpc).raise rfl hf
  · exact (h.begin hpc).completes hrun (Nat.succ_pos _) hpc hc

end State.Inv

/-! ### The obligations -/

/-- Settles O3: a step clears the frame flag at the program's end, or runs the fetched instruction and finishes. -/
theorem stepKeepsInvariant : Obligations.StepKeepsInvariant := by
  intro s t h hstep
  obtain ⟨hrun, ⟨-, rfl⟩ | ⟨d, u, hfetch, he, rfl⟩⟩ := step_cases hstep
  · exact h.clearFrameChanged
  · obtain ⟨hpc, -⟩ := List.getElem?_eq_some_iff.1 hfetch
    exact (h.exec_begin hrun hpc he).finish

/-- Settles O28: a raised fault writes the status alone, and each completion has its element's writer. -/
theorem stateElementsHaveNamedWriters : Obligations.StateElementsHaveNamedWriters := by
  intro i s t h
  obtain ⟨f, -, rfl⟩ | hc := exec_cases h
  · simp
  · cases hc <;> simp

theorem flagByte_eq_zero_or_one (b : Bool) : flagByte b = 0 ∨ flagByte b = 1 := by
  cases b
  · exact .inl rfl
  · exact .inr rfl

/-- FX65 leaves alone the registers above the last it loads. -/
theorem getV_loadRegs_of_lt {as : List Addr} {x r : RegIdx} (len : as.length = x.val + 1) (hr : x < r) :
    State.getV { s with v := loadRegs s.mem 0 as s.v } r = s.getV r := by
  have hlt : x.val < r.val := hr
  have hout : ¬ (0 ≤ r.val ∧ r.val - 0 < as.length) := by omega
  exact (loadRegs_getElem s.mem 0 as s.v r.val r.isLt).trans (dif_neg hout)

theorem State.eq_of_getV_setV_ne {x r : RegIdx} {b : Byte} (hr : (s.setV x b).getV r ≠ s.getV r) : r = x := by
  by_contra hne
  exact hr (State.getV_setV_other s b hne)

/-- The registers a completed instruction can change. -/
theorem State.Completes.register_writer (hc : s.Completes i t) {r : RegIdx} (hr : t.getV r ≠ s.getV r) :
    i.destination = some r ∨ (∃ x, i = .loadRegistersFromMemory x ∧ r ≤ x) ∨ (r = 15 ∧ i.producesFlag = true) := by
  cases hc with
  | register b dest =>
    obtain rfl := State.eq_of_getV_setV_ne hr
    exact .inl dest
  | random x kk b =>
    obtain rfl : r = x := State.eq_of_getV_setV_ne hr
    exact .inl rfl
  | resultAndFlag result flag dest isFlag =>
    by_cases hF : r = 15
    · exact .inr (.inr ⟨hF, isFlag⟩)
    · rw [State.getV_setResultAndFlag, if_neg hF, ← State.getV_setV] at hr
      obtain rfl := State.eq_of_getV_setV_ne hr
      exact .inl dest
  | draw x y n fb flag => exact .inr (.inr ⟨State.eq_of_getV_setV_ne hr, rfl⟩)
  | load x len =>
    refine .inr (.inl ⟨x, rfl, ?_⟩)
    by_contra hlt
    exact hr (getV_loadRegs_of_lt len (not_le.1 hlt))
  | _ => exact absurd rfl hr

/-- VF after a flag-producing instruction that completed: the flag is written last (R171). -/
theorem State.Completes.flag_value (hc : s.Completes i t) (hi : i.producesFlag = true) :
    t.getV 15 = 0 ∨ t.getV 15 = 1 := by
  cases hc with
  | resultAndFlag result flag =>
    rw [State.getV_setResultAndFlag, if_pos rfl]
    exact flagByte_eq_zero_or_one flag
  | draw x y n fb flag =>
    rw [regF, State.getV_setV_same]
    exact flagByte_eq_zero_or_one flag
  | register b dest noFlag => simp [noFlag] at hi
  | goto bound noFlag => simp [noFlag] at hi
  | _ => simp [Instr.producesFlag] at hi

/-- Settles O29: a raised fault keeps every register and is no completion. -/
theorem registersHaveNamedWriters : Obligations.RegistersHaveNamedWriters := by
  intro i s t h
  obtain ⟨f, -, rfl⟩ | hc := exec_cases h
  · exact ⟨fun r hr => absurd rfl hr, fun _ _ hrun => by simp at hrun⟩
  · exact ⟨fun r => hc.register_writer, fun hi _ _ => hc.flag_value hi⟩

/-- Settles O1. -/
theorem resetStateValues : Obligations.ResetStateValues := by
  refine ⟨fun x => ?_, fun a => rfl, rfl, rfl, rfl, rfl, rfl, rfl, Framebuffer.get_blank, rfl, rfl, rfl, rfl⟩
  simp [State.getV, State.reset]

/-- Settles O2: store and stack are empty, and the status is running. -/
theorem resetMeetsInvariant : Obligations.ResetMeetsInvariant where
  memCanonical := rfl
  stackDepth := by decide
  stackEntries := by simp [State.reset]
  pcBound := by decide
  programDecoded := by simp [State.reset]
  boundsFault := by simp [State.reset]
  faultedFrame := by simp [State.reset]

end Sys2Proof.Machine

/-! Data memory and the instruction store (20_memory.md): the access past 0xFFF that faults before any change, the
store that nothing writes, and the word that loading puts into it. -/

namespace Sys2Proof.Machine

/-! ### An access past 0xFFF under `MEM_ADDR_OVERFLOW = fault` (R52, R53) -/

/-- An instruction that may not touch its bytes raises MemoryBounds at the first address past 0xFFF. -/
theorem State.withAddrs_of_not_canTouch {s : State} {n : Nat} (h : ¬ s.CanTouch n) (effect : List Addr → State) :
    s.withAddrs n effect = .next (s.raise (.memoryBounds 4096)) := by
  rw [State.withAddrs_eq]
  exact if_neg h

/-- No access, no overflow: the 12-bit I itself is inside data memory. -/
theorem State.canTouch_zero (s : State) : s.CanTouch 0 := .inr s.i.isLt.le

/-- The four instructions that touch memory check their addresses first; every other one touches no byte. -/
theorem exec_of_not_canTouch {i : Instr} {s : State} (h : ¬ s.CanTouch i.touches) :
    exec i s = .next (s.raise (.memoryBounds 4096)) := by
  cases i with
  | storeBCD | dumpRegistersToMemory | loadRegistersFromMemory | drawSprite =>
    exact State.withAddrs_of_not_canTouch h _
  | _ => exact absurd s.canTouch_zero h

/-- Settles O25: past 0xFFF under `fault` the instruction may not touch its bytes. -/
theorem boundsFaultChangesNothing : Obligations.BoundsFaultChangesNothing := by
  intro i s hmode hpast
  refine exec_of_not_canTouch ?_
  rintro (hwrap | hinside)
  · simp [hmode] at hwrap
  · exact absurd hinside (Nat.not_le_of_lt hpast)

/-! ### Nothing writes the instruction store (R54, R62) -/

variable {s t : State} {i : Instr}

theorem State.Effect.program_eq (h : s.Effect i t) : t.program = s.program := by
  obtain ⟨f, -, rfl⟩ | hc := h
  · rfl
  · exact hc.program_eq

theorem State.Effect.params_eq (h : s.Effect i t) : t.params = s.params := by
  obtain ⟨f, -, rfl⟩ | hc := h
  · rfl
  · exact hc.params_eq

@[simp] theorem State.finish_program (s : State) : s.finish.program = s.program := by
  cases h : s.status with
  | running => rw [finish_of_running h, State.decay_program]
  | faulted k => rw [finish_of_faulted h]

theorem step_program_eq (h : step s = .next t) : t.program = s.program := by
  obtain ⟨-, ⟨-, rfl⟩ | ⟨d, u, -, he, rfl⟩⟩ := step_cases h
  · rfl
  · rw [State.finish_program, (exec_cases he).program_eq, State.begin_program]

/-- Settles O27: a step and an instruction keep the store, and the fetch reads only the store and the pc. -/
theorem storesNeverReachFetch : Obligations.StoresNeverReachFetch :=
  ⟨fun _ _ => step_program_eq, fun _ _ _ h => ⟨(exec_cases h).program_eq, (exec_cases h).params_eq⟩, fun _ _ => rfl⟩

/-! ### Loading a word into the store (log entry 8) -/

theorem placeAt_getElem?_same (d : Decoded) (n : Nat) (ds : List Decoded) : (placeAt d n ds)[n]? = some d := by
  induction n generalizing ds with
  | zero => cases ds <;> rfl
  | succ n ih => cases ds <;> exact ih _

/-- The entries a store had stay, but for the one replaced. -/
theorem placeAt_getElem?_of_ne (d : Decoded) {n k : Nat} {ds : List Decoded} (hk : k < ds.length) (hne : k ≠ n) :
    (placeAt d n ds)[k]? = ds[k]? := by
  induction ds generalizing n k with
  | nil => exact absurd hk (Nat.not_lt_zero k)
  | cons e rest ih =>
    cases n with
    | zero =>
      obtain ⟨k, rfl⟩ := Nat.exists_eq_succ_of_ne_zero hne
      rfl
    | succ n =>
      cases k with
      | zero => rfl
      | succ k => exact ih (Nat.lt_of_succ_lt_succ hk) (fun h => hne (congrArg (· + 1) h))

/-- A 16-bit row of the table numbers a word by its value. -/
theorem tableWord_toNat (w : Word) : tableWord 16 w.toNat = some w := by
  have hmod : w.toNat % 2 ^ 16 = w.toNat := Nat.mod_eq_of_lt w.isLt
  rw [tableWord, hmod, if_pos w.isLt, BitVec.ofNat_toNat, BitVec.setWidth_eq]

theorem State.withFetchWord_of_decode {w : Word} (h : decode s.params.zeroGroupDecode w = .ok i) :
    s.withFetchWord 16 w.toNat =
      { s with program := placeAt { instr := i, word := w } s.pc s.program, status := .running } := by
  simp only [State.withFetchWord, State.placeWord, tableWord_toNat, h]

/-- Settles O18: loading a word that decodes replaces the entry at the pc. -/
theorem placedWordIsFetched : Obligations.PlacedWordIsFetched := by
  intro s w i h
  exact ⟨_, State.withFetchWord_of_decode h, placeAt_getElem?_same _ _ _, fun _ => placeAt_getElem?_of_ne _⟩

end Sys2Proof.Machine

/-! The decoder (30_encoding.md section 3) on the fields of a word read as numbers, and the encoder (section 4). -/

namespace Sys2Proof

/-! ### The fields of a word, in the spelling of the statements (R71) -/

@[simp] theorem fieldX_eq_xOf (w : Word) : fieldX w = w.xOf :=
  Fin.ext <| by simp [fieldX_val, Word.xOf]

@[simp] theorem fieldY_eq_yOf (w : Word) : fieldY w = w.yOf :=
  Fin.ext <| by simp [fieldY_val, Word.yOf]

@[simp] theorem fieldKK_eq_kkOf (w : Word) : fieldKK w = w.kkOf :=
  BitVec.eq_of_toNat_eq <| by simp [fieldKK_toNat, Word.kkOf]

@[simp] theorem fieldNNN_eq_nnnOf (w : Word) : fieldNNN w = w.nnnOf :=
  BitVec.eq_of_toNat_eq <| by simp [fieldNNN_toNat, Word.nnnOf]

@[simp] theorem fieldN_eq_ofNat (w : Word) : fieldN w = BitVec.ofNat 4 (w.toNat % 16) :=
  BitVec.eq_of_toNat_eq <| by simp [fieldN_toNat]

theorem fieldN_eq_zero_iff (w : Word) : fieldN w = 0#4 ↔ w.toNat % 16 = 0 := by
  rw [← BitVec.toNat_inj, fieldN_toNat]
  rfl

@[simp] theorem xOf_val (w : Word) : w.xOf.val = w.toNat / 256 % 16 := by simp [Word.xOf]

@[simp] theorem yOf_val (w : Word) : w.yOf.val = w.toNat / 16 % 16 := by simp [Word.yOf]

@[simp] theorem kkOf_toNat (w : Word) : w.kkOf.toNat = w.toNat % 256 := by simp [Word.kkOf]

@[simp] theorem nnnOf_toNat (w : Word) : w.nnnOf.toNat = w.toNat % 4096 := by simp [Word.nnnOf]

/-! ### Group 0 (R76) -/

/-- The number a word of group 0 is compared with 0x00E0 and 0x00EE by: its low byte under the `literal` reading, the
whole word under the `strict` one (decision D11). -/
def zeroGroupKey : ZeroGroupDecode → Nat → Nat
  | .literal, n => n % 256
  | .strict, n => n

theorem decodeGroup0_eq (z : ZeroGroupDecode) (w : Word) :
    decodeGroup0 z w =
      if zeroGroupKey z w.toNat = 0xE0 then .ok .clearDisplay
      else if zeroGroupKey z w.toNat = 0xEE then .ok .returnFromSubroutine
      else if 2 ≤ w.toNat / 256 % 16 then .ok (.callMachineRoutine w.nnnOf)
      else .error .group0 := by
  cases z <;> simp [decodeGroup0, zeroGroupKey, ← BitVec.toNat_inj] <;> congr

section
variable {z : ZeroGroupDecode} {w : Word} (hg : w.toNat / 4096 = 0)
include hg

theorem decode_of_group_zero : decode z w = decodeGroup0 z w := by
  simp only [decode, fieldGroup_toNat, hg]

theorem decode_clearDisplay (h : zeroGroupKey z w.toNat = 0xE0) : decode z w = .ok .clearDisplay := by
  rw [decode_of_group_zero hg, decodeGroup0_eq, if_pos h]

theorem decode_returnFromSubroutine (h : zeroGroupKey z w.toNat = 0xEE) :
    decode z w = .ok .returnFromSubroutine := by
  simp [decode_of_group_zero hg, decodeGroup0_eq, h]

theorem decode_machineRoutine (hclear : zeroGroupKey z w.toNat ≠ 0xE0) (hreturn : zeroGroupKey z w.toNat ≠ 0xEE) :
    decode z w = if 2 ≤ w.toNat / 256 then .ok (.callMachineRoutine w.nnnOf) else .error .group0 := by
  have hx : w.toNat / 256 % 16 = w.toNat / 256 := by omega
  rw [decode_of_group_zero hg, decodeGroup0_eq, if_neg hclear, if_neg hreturn, hx]

end

/-- The address of a CallMachineRoutine word: the two words taken from it are the ones group 0 tests first. -/
theorem machineRoutineAddrOk_iff (z : ZeroGroupDecode) (nnn : Addr) :
    machineRoutineAddrOk z nnn = true ↔
      0x200 ≤ nnn.toNat ∧ zeroGroupKey z nnn.toNat ≠ 0xE0 ∧ zeroGroupKey z nnn.toNat ≠ 0xEE := by
  cases z with
  | literal => simp [machineRoutineAddrOk, zeroGroupKey]
  | strict =>
    simp only [machineRoutineAddrOk, zeroGroupKey, Bool.and_true, decide_eq_true_eq]
    omega

/-- Settles O12: the three tests of group 0 in their order, by the number each reading compares. -/
theorem groupZeroDecodes : Obligations.GroupZeroDecodes := by
  intro w hg
  exact ⟨decode_clearDisplay (z := .literal) hg, decode_returnFromSubroutine (z := .literal) hg,
    decode_clearDisplay (z := .strict) hg, decode_returnFromSubroutine (z := .strict) hg,
    decode_machineRoutine (z := .literal) hg, decode_machineRoutine (z := .strict) hg⟩

/-- Outside group 0 the decoder does not look at the reading. -/
theorem decode_of_group_ne_zero {w : Word} (h : w.toNat / 4096 ≠ 0) (z z' : ZeroGroupDecode) :
    decode z w = decode z' w := by
  unfold decode
  rw [fieldGroup_toNat]
  split
  · contradiction
  all_goals rfl

/-- Settles O11: outside group 0 the reading is not used, and in it the tests compare the low byte or the whole word,
which agree unless w2 is not 0. -/
theorem zeroGroupReadingsDiffer : Obligations.ZeroGroupReadingsDiffer := by
  intro w
  by_cases hg : w.toNat / 4096 = 0
  swap
  · simp [decode_of_group_ne_zero hg .literal .strict, hg]
  by_cases hx : w.toNat / 256 % 16 = 0
  · have hkey : zeroGroupKey .literal w.toNat = zeroGroupKey .strict w.toNat := by
      simp only [zeroGroupKey]
      omega
    simp [decode_of_group_zero hg, decodeGroup0_eq, hkey, hx]
  · have hstrict := decode_machineRoutine (z := .strict) hg (by simp only [zeroGroupKey]; omega)
      (by simp only [zeroGroupKey]; omega)
    by_cases hclear : w.toNat % 256 = 0xE0
    · rw [hstrict, decode_clearDisplay (z := .literal) hg hclear]
      split <;> simp [hg, hx, hclear]
    by_cases hreturn : w.toNat % 256 = 0xEE
    · rw [hstrict, decode_returnFromSubroutine (z := .literal) hg hreturn]
      split <;> simp [hg, hx, hreturn]
    · rw [hstrict, decode_machineRoutine (z := .literal) hg hclear hreturn]
      simp [hclear, hreturn]

/-! ### Groups 1 to F (R77 to R81) -/

/-- Settles O13: the group alone selects, and w4 in group 5. -/
theorem groupsOneToSevenDecode : Obligations.GroupsOneToSevenDecode := by
  intro z w
  refine ⟨fun hg => ?_, fun hg => ?_, fun hg => ?_, fun hg => ?_, fun hg hn => ?skip, fun hg hn => ?illegal,
    fun hg => ?_, fun hg => ?_⟩
  case skip =>
    simp only [decode, fieldGroup_toNat, hg, decodeGroup5, fieldN_eq_zero_iff, hn, if_true, fieldX_eq_xOf,
      fieldY_eq_yOf]
  case illegal => simp only [decode, fieldGroup_toNat, hg, decodeGroup5, fieldN_eq_zero_iff, hn, if_false]
  all_goals simp only [decode, fieldGroup_toNat, hg, fieldX_eq_xOf, fieldKK_eq_kkOf, fieldNNN_eq_nnnOf]

/-- Settles O14: the sixteen values of w4. -/
theorem groupEightDecodes : Obligations.GroupEightDecodes := by
  intro z w hg
  have hd : decode z w = decodeGroup8 w := by simp only [decode, fieldGroup_toNat, hg]
  rw [hd, decodeGroup8, fieldN_toNat, fieldX_eq_xOf, fieldY_eq_yOf]
  refine ⟨?_, ?_, ?_, ?_, ?_, ?_, ?_, ?_, ?_, fun h => ?illegal⟩
  case illegal => split <;> simp_all
  all_goals
    intro h
    simp only [h]

/-- Settles O15: the group alone selects, and w4 in group 9. -/
theorem groupsNineToThirteenDecode : Obligations.GroupsNineToThirteenDecode := by
  intro z w
  refine ⟨fun hg hn => ?skip, fun hg hn => ?illegal, fun hg => ?_, fun hg => ?_, fun hg => ?_, fun hg => ?_⟩
  case skip =>
    simp only [decode, fieldGroup_toNat, hg, decodeGroup9, fieldN_eq_zero_iff, hn, if_true, fieldX_eq_xOf,
      fieldY_eq_yOf]
  case illegal => simp only [decode, fieldGroup_toNat, hg, decodeGroup9, fieldN_eq_zero_iff, hn, if_false]
  all_goals simp only [decode, fieldGroup_toNat, hg, fieldX_eq_xOf, fieldY_eq_yOf, fieldKK_eq_kkOf, fieldNNN_eq_nnnOf,
    fieldN_eq_ofNat]

/-- Settles O16: the low byte selects. -/
theorem groupsFourteenAndFifteenDecode : Obligations.GroupsFourteenAndFifteenDecode := by
  intro z w
  refine ⟨fun hg => ?_, fun hg => ?_⟩
  · have hd : decode z w = decodeGroupE w := by simp only [decode, fieldGroup_toNat, hg]
    rw [hd, decodeGroupE, fieldKK_toNat, fieldX_eq_xOf]
    refine ⟨?_, ?_, fun h => ?illegal⟩
    case illegal => split <;> simp_all
    all_goals
      intro h
      simp only [h]
  · have hd : decode z w = decodeGroupF w := by simp only [decode, fieldGroup_toNat, hg]
    rw [hd, decodeGroupF, fieldKK_toNat, fieldX_eq_xOf]
    refine ⟨?_, ?_, ?_, ?_, ?_, ?_, ?_, ?_, ?_, fun h => ?illegal⟩
    case illegal => split <;> simp_all
    all_goals
      intro h
      simp only [h]

/-- Settles O8: the eight words, under each reading. -/
theorem sourceExampleWordsDecode : Obligations.SourceExampleWordsDecode
  | .literal => by decide
  | .strict => by decide

/-! ### The fields of a packed word -/

section
variable (g : BitVec 4) (nnn : Addr) (x y : RegIdx) (kk : Byte) (n : BitVec 4)

@[simp] theorem packAddress_group : (packAddress g nnn).toNat / 4096 = g.toNat := by
  rw [packAddress_toNat]
  omega

@[simp] theorem packAddress_nnnOf : (packAddress g nnn).nnnOf = nnn := by
  apply BitVec.eq_of_toNat_eq
  rw [nnnOf_toNat, packAddress_toNat]
  omega

@[simp] theorem packRegByte_group : (packRegByte g x kk).toNat / 4096 = g.toNat := by
  rw [packRegByte_toNat]
  omega

@[simp] theorem packRegByte_xOf : (packRegByte g x kk).xOf = x := by
  apply Fin.ext
  rw [xOf_val, packRegByte_toNat]
  omega

@[simp] theorem packRegByte_lowByte : (packRegByte g x kk).toNat % 256 = kk.toNat := by
  rw [packRegByte_toNat]
  omega

@[simp] theorem packRegByte_kkOf : (packRegByte g x kk).kkOf = kk :=
  BitVec.eq_of_toNat_eq <| by rw [kkOf_toNat, packRegByte_lowByte]

@[simp] theorem packRegReg_group : (packRegReg g x y n).toNat / 4096 = g.toNat := by
  rw [packRegReg_toNat]
  omega

@[simp] theorem packRegReg_xOf : (packRegReg g x y n).xOf = x := by
  apply Fin.ext
  rw [xOf_val, packRegReg_toNat]
  omega

@[simp] theorem packRegReg_yOf : (packRegReg g x y n).yOf = y := by
  apply Fin.ext
  rw [yOf_val, packRegReg_toNat]
  omega

@[simp] theorem packRegReg_lowNibble : (packRegReg g x y n).toNat % 16 = n.toNat := by
  rw [packRegReg_toNat]
  omega

end

/-- Settles O9: a packed word's fields are its operands; the address of a CallMachineRoutine word passes the first two
tests of group 0. -/
theorem encodedInstructionsDecode : Obligations.EncodedInstructionsDecode := by
  intro z i hwf
  cases i with
  | clearDisplay | returnFromSubroutine => cases z <;> rfl
  | callMachineRoutine nnn =>
    obtain ⟨hlow, hclear, hreturn⟩ := (machineRoutineAddrOk_iff z nnn).1 hwf
    have hval : (packAddress 0#4 nnn).toNat = nnn.toNat := by simp [packAddress_toNat]
    rw [encode, decode_machineRoutine (packAddress_group 0#4 nnn) (by rwa [hval]) (by rwa [hval]), hval,
      if_pos (by omega), packAddress_nnnOf]
  | jump | callSubroutine | setIndexConst | jumpIndexed
  | skipIfRegEqualsConst | skipIfRegNotEqualsConst | setRegConst | addConstNoFlag | randomMasked | drawSprite =>
    simp [encode, decode, fieldGroup_toNat]
  | skipIfRegEqualsReg => simp [encode, decode, fieldGroup_toNat, decodeGroup5]
  | setRegReg | orReg | andReg | xorReg | addReg | subReg | shiftRight | subRegReversed | shiftLeft =>
    simp [encode, decode, fieldGroup_toNat, decodeGroup8]
  | skipIfRegNotEqualsReg => simp [encode, decode, fieldGroup_toNat, decodeGroup9]
  | skipIfKeyPressed | skipIfKeyNotPressed => simp [encode, decode, fieldGroup_toNat, decodeGroupE]
  | getDelayTimer | awaitKeyThenStore | setDelayTimer | setSoundTimer | addIndexReg | setIndexToSpriteGlyph | storeBCD
  | dumpRegistersToMemory | loadRegistersFromMemory =>
    simp [encode, decode, fieldGroup_toNat, decodeGroupF]

/-! ### Packing the fields of a word -/

section
variable {w : Word} {g : BitVec 4} (hg : w.toNat / 4096 = g.toNat)
include hg

theorem packAddress_fields : packAddress g w.nnnOf = w := by
  apply BitVec.eq_of_toNat_eq
  rw [packAddress_toNat, nnnOf_toNat]
  omega

theorem packRegByte_fields {kk : Byte} (hkk : w.toNat % 256 = kk.toNat) : packRegByte g w.xOf kk = w := by
  apply BitVec.eq_of_toNat_eq
  rw [packRegByte_toNat, xOf_val]
  omega

theorem packRegReg_fields {n : BitVec 4} (hn : w.toNat % 16 = n.toNat) : packRegReg g w.xOf w.yOf n = w := by
  apply BitVec.eq_of_toNat_eq
  rw [packRegReg_toNat, xOf_val, yOf_val]
  omega

end

/-! ### The word a decoded instruction came from -/

section
variable {z : ZeroGroupDecode} {w : Word} {i : Instr}

theorem encode_of_decodeGroup5 (hg : w.toNat / 4096 = 5) (h : decodeGroup5 w = .ok i) :
    i.wellFormed z = true ∧ encode i = w := by
  simp only [decodeGroup5, fieldN_eq_zero_iff, fieldX_eq_xOf, fieldY_eq_yOf] at h
  split at h <;> cases h
  exact ⟨rfl, packRegReg_fields hg ‹_›⟩

theorem encode_of_decodeGroup8 (hg : w.toNat / 4096 = 8) (h : decodeGroup8 w = .ok i) :
    i.wellFormed z = true ∧ encode i = w := by
  simp only [decodeGroup8, fieldN_toNat, fieldX_eq_xOf, fieldY_eq_yOf] at h
  split at h <;> cases h <;> exact ⟨rfl, packRegReg_fields hg ‹_›⟩

theorem encode_of_decodeGroup9 (hg : w.toNat / 4096 = 9) (h : decodeGroup9 w = .ok i) :
    i.wellFormed z = true ∧ encode i = w := by
  simp only [decodeGroup9, fieldN_eq_zero_iff, fieldX_eq_xOf, fieldY_eq_yOf] at h
  split at h <;> cases h
  exact ⟨rfl, packRegReg_fields hg ‹_›⟩

theorem encode_of_decodeGroupE (hg : w.toNat / 4096 = 14) (h : decodeGroupE w = .ok i) :
    i.wellFormed z = true ∧ encode i = w := by
  simp only [decodeGroupE, fieldKK_toNat, fieldX_eq_xOf] at h
  split at h <;> cases h <;> exact ⟨rfl, packRegByte_fields hg ‹_›⟩

theorem encode_of_decodeGroupF (hg : w.toNat / 4096 = 15) (h : decodeGroupF w = .ok i) :
    i.wellFormed z = true ∧ encode i = w := by
  simp only [decodeGroupF, fieldKK_toNat, fieldX_eq_xOf] at h
  split at h <;> cases h <;> exact ⟨rfl, packRegByte_fields hg ‹_›⟩

/-- Outside group 0 the word of the instruction is the word decoded, with all its operands. -/
theorem encode_of_decode (hg : w.toNat / 4096 ≠ 0) (h : decode z w = .ok i) :
    i.wellFormed z = true ∧ encode i = w := by
  have hlt : w.toNat / 4096 < 16 := Nat.div_lt_of_lt_mul w.isLt
  simp only [decode, fieldGroup_toNat, fieldX_eq_xOf, fieldY_eq_yOf, fieldKK_eq_kkOf, fieldNNN_eq_nnnOf] at h
  split at h
  case h_1 => contradiction
  case h_2 | h_3 | h_11 | h_12 => cases h; exact ⟨rfl, packAddress_fields ‹_›⟩
  case h_4 | h_5 | h_7 | h_8 | h_13 => cases h; exact ⟨rfl, packRegByte_fields ‹_› (kkOf_toNat w).symm⟩
  case h_6 => exact encode_of_decodeGroup5 ‹_› h
  case h_9 => exact encode_of_decodeGroup8 ‹_› h
  case h_10 => exact encode_of_decodeGroup9 ‹_› h
  case h_14 => cases h; exact ⟨rfl, packRegReg_fields ‹_› (fieldN_toNat w).symm⟩
  case h_15 => exact encode_of_decodeGroupE ‹_› h
  case h_16 => exact encode_of_decodeGroupF (by simp only [imp_false] at *; omega) h

/-- A word of group 0 that is compared equal to a fixed word is that word, or the `literal` reading's spelling of it. -/
theorem zeroGroupKey_eq {c : Word} (h : zeroGroupKey z w.toNat = c.toNat) :
    c = w ∨ (z = .literal ∧ c.toNat = w.toNat % 256) := by
  cases z with
  | literal => exact .inr ⟨rfl, h.symm⟩
  | strict => exact .inl (BitVec.eq_of_toNat_eq h.symm)

end

/-- Settles O10: outside group 0 packing the fields gives the word back; in group 0 so it does for CallMachineRoutine,
and the two fixed words are met by the number the reading compares. -/
theorem decodedWordsReencode : Obligations.DecodedWordsReencode := by
  intro z w i h
  by_cases hg : w.toNat / 4096 = 0
  swap
  · exact (encode_of_decode hg h).imp_right .inl
  by_cases hclear : zeroGroupKey z w.toNat = 0xE0
  · rw [decode_clearDisplay hg hclear] at h
    cases h
    exact ⟨rfl, (zeroGroupKey_eq hclear).imp_right fun ⟨hz, hw⟩ => ⟨hz, .inl rfl, hg, hw⟩⟩
  by_cases hreturn : zeroGroupKey z w.toNat = 0xEE
  · rw [decode_returnFromSubroutine hg hreturn] at h
    cases h
    exact ⟨rfl, (zeroGroupKey_eq hreturn).imp_right fun ⟨hz, hw⟩ => ⟨hz, .inr rfl, hg, hw⟩⟩
  rw [decode_machineRoutine hg hclear hreturn] at h
  split at h <;> cases h
  have hval : w.nnnOf.toNat = w.toNat := by rw [nnnOf_toNat]; omega
  refine ⟨(machineRoutineAddrOk_iff z _).2 ?_, .inl (packAddress_fields hg)⟩
  rw [hval]
  exact ⟨by omega, hclear, hreturn⟩

end Sys2Proof

/-! Program text (30_encoding.md R85): the hex characters, a line, and creation from lines. -/

namespace Sys2Proof.Machine

/-! ### One character and one line -/

/-- The hex characters, by the code points `hexDigit` tests: 0-9, A-F, a-f. -/
def hexChars : List Char := (List.range' 48 10 ++ List.range' 65 6 ++ List.range' 97 6).map Char.ofNat

theorem mem_hexChars_of_hexDigit {c : Char} {d : Nat} (h : hexDigit c = some d) : c ∈ hexChars := by
  refine List.mem_map.2 ⟨c.toNat, ?_, Char.ofNat_toNat c⟩
  simp only [List.mem_append, List.mem_range'_1]
  unfold hexDigit at h
  split_ifs at h <;> omega

theorem hexDigit_lt {c : Char} {d : Nat} (h : hexDigit c = some d) : d < 16 := by
  unfold hexDigit at h
  split_ifs at h <;> cases h <;> omega

theorem parseLine_of_digits {c1 c2 c3 c4 : Char} {d1 d2 d3 d4 : Nat} (h1 : hexDigit c1 = some d1)
    (h2 : hexDigit c2 = some d2) (h3 : hexDigit c3 = some d3) (h4 : hexDigit c4 = some d4) :
    parseLine [c1, c2, c3, c4] = some (BitVec.ofNat 16 (4096 * d1 + 256 * d2 + 16 * d3 + d4)) := by
  simp only [parseLine, h1, h2, h3, h4]

theorem parseLine_isSome_iff (text : List Char) :
    (parseLine text).isSome = true ↔ text.length = 4 ∧ ∀ c ∈ text, (hexDigit c).isSome = true := by
  constructor
  · intro h
    unfold parseLine at h
    split at h
    · split at h
      · simp [*]
      · cases h
    · cases h
  · rintro ⟨hlen, hall⟩
    obtain ⟨c1, c2, c3, c4, rfl⟩ : ∃ c1 c2 c3 c4, text = [c1, c2, c3, c4] := by
      match text, hlen with
      | [c1, c2, c3, c4], _ => exact ⟨c1, c2, c3, c4, rfl⟩
    simp only [List.forall_mem_cons, Option.isSome_iff_exists] at hall
    obtain ⟨⟨d1, h1⟩, ⟨d2, h2⟩, ⟨d3, h3⟩, ⟨d4, h4⟩, -⟩ := hall
    rw [parseLine_of_digits h1 h2 h3 h4]
    rfl

/-- Settles O6: the characters by their code points, and four digits below 16 fill a word. -/
theorem textLineIsFourHexDigits : Obligations.TextLineIsFourHexDigits := by
  refine ⟨by decide, by decide, fun _ _ => hexDigit_lt, fun c hc => ?_, parseLine_isSome_iff, ?_⟩
  · obtain ⟨d, hd⟩ := Option.isSome_iff_exists.1 hc
    exact mem_hexChars_of_hexDigit hd
  · intro c1 c2 c3 c4 d1 d2 d3 d4 h1 h2 h3 h4
    refine ⟨_, parseLine_of_digits h1 h2 h3 h4, ?_⟩
    have := hexDigit_lt h1
    have := hexDigit_lt h2
    have := hexDigit_lt h3
    have := hexDigit_lt h4
    rw [BitVec.toNat_ofNat]
    omega

/-! ### Creation from lines -/

/-- The line is refused with the error (R271): it is not four hex characters, or its word is no instruction. -/
inductive BadLine (z : ZeroGroupDecode) (k : Nat) (text : List Char) : DecodeError → Prop
  | malformed (malformed : parseLine text = none) : BadLine z k text (.malformedLine k text)
  | illegal {w : Word} {reason : IllegalWord} (word : parseLine text = some w) (illegal : decode z w = .error reason) :
      BadLine z k text (.illegalWord k w reason)

/-- The line is there, it is four hex characters, and its word is an instruction. -/
def GoodLine (z : ZeroGroupDecode) (line : Option (List Char)) : Prop :=
  ∃ w i, line.bind parseLine = some w ∧ decode z w = .ok i

section
variable {z : ZeroGroupDecode} {k : Nat} {text : List Char} {lines : List (List Char)} {e : DecodeError}

theorem badLine_or_goodLine (z : ZeroGroupDecode) (k : Nat) (text : List Char) :
    (∃ e, BadLine z k text e) ∨ GoodLine z (some text) := by
  cases hw : parseLine text with
  | none => exact .inl ⟨_, .malformed hw⟩
  | some w =>
    cases hi : decode z w with
    | error r => exact .inl ⟨_, .illegal hw hi⟩
    | ok i => exact .inr ⟨w, i, hw, hi⟩

theorem decodeLines_cons_of_bad (h : BadLine z k text e) : decodeLines z k (text :: lines) = .error e := by
  cases h with
  | malformed hw => simp only [decodeLines, hw]
  | illegal hw hi => simp only [decodeLines, hw, hi]

theorem decodeLines_cons_of_good {w : Word} {i : Instr} (hw : parseLine text = some w) (hi : decode z w = .ok i) :
    decodeLines z k (text :: lines) = (decodeLines z (k + 1) lines).map ({ instr := i, word := w } :: ·) := by
  simp only [decodeLines, hw, hi]
  cases decodeLines z (k + 1) lines <;> rfl

theorem decodeProgram_cons_of_ok {w : Word} {i : Instr} {prog : List Word} (hi : decode z w = .ok i) :
    decodeProgram z k (w :: prog) = (decodeProgram z (k + 1) prog).map ({ instr := i, word := w } :: ·) := by
  simp only [decodeProgram, hi]
  cases decodeProgram z (k + 1) prog <;> rfl

/-- The first bad line decides: the error is that of a bad line with only good ones before it. -/
theorem decodeLines_eq_error_iff :
    decodeLines z k lines = .error e ↔
      ∃ n text, lines[n]? = some text ∧ BadLine z (k + n) text e ∧ ∀ j < n, GoodLine z lines[j]? := by
  induction lines generalizing k with
  | nil => simp [decodeLines]
  | cons first lines ih =>
    constructor
    · intro h
      obtain ⟨e', hbad⟩ | hgood := badLine_or_goodLine z k first
      · rw [decodeLines_cons_of_bad hbad] at h
        cases h
        exact ⟨0, first, rfl, hbad, fun j hj => absurd hj j.not_lt_zero⟩
      · obtain ⟨w, i, hw, hi⟩ := hgood
        rw [decodeLines_cons_of_good hw hi] at h
        cases hrest : decodeLines z (k + 1) lines with
        | ok ds => simp [hrest, Except.map] at h
        | error e' =>
          rw [hrest] at h
          cases h
          obtain ⟨n, text, hn, hbad, hbefore⟩ := ih.1 hrest
          exact ⟨n + 1, text, hn, Nat.add_right_comm k n 1 ▸ hbad,
            Nat.forall_lt_succ_left.2 ⟨⟨w, i, hw, hi⟩, hbefore⟩⟩
    · rintro ⟨n, text, hn, hbad, hbefore⟩
      cases n with
      | zero =>
        cases hn
        exact decodeLines_cons_of_bad hbad
      | succ n =>
        obtain ⟨⟨w, i, hw, hi⟩, hbefore⟩ := Nat.forall_lt_succ_left.1 hbefore
        rw [decodeLines_cons_of_good hw hi, ih.2 ⟨n, text, hn, Nat.add_right_comm k 1 n ▸ hbad, hbefore⟩]
        rfl

/-- Lines that are the words of a program decode as the program does. -/
theorem decodeLines_eq_decodeProgram {prog : List Word} (h : lines.map parseLine = prog.map some) :
    decodeLines z k lines = decodeProgram z k prog := by
  induction lines generalizing k prog with
  | nil =>
    cases prog with
    | nil => rfl
    | cons w prog => cases h
  | cons text lines ih =>
    cases prog with
    | nil => cases h
    | cons w prog =>
      obtain ⟨hw, hrest⟩ := List.cons.inj h
      cases hi : decode z w with
      | error r => simp only [decodeLines, decodeProgram, hw, hi]
      | ok i => rw [decodeLines_cons_of_good hw hi, decodeProgram_cons_of_ok hi, ih hrest]

/-- Lines that decode are the lines of a program: the words the store keeps. -/
theorem map_parseLine_of_decodeLines {ds : List Decoded} (h : decodeLines z k lines = .ok ds) :
    lines.map parseLine = (ds.map Decoded.word).map some := by
  induction lines generalizing k ds with
  | nil => cases h; rfl
  | cons text lines ih =>
    obtain ⟨e, hbad⟩ | ⟨w, i, hw, hi⟩ := badLine_or_goodLine z k text
    · simp [decodeLines_cons_of_bad hbad] at h
    · rw [decodeLines_cons_of_good hw hi] at h
      cases hrest : decodeLines z (k + 1) lines with
      | error e => simp [hrest, Except.map] at h
      | ok rest =>
        rw [hrest] at h
        cases h
        exact congrArg₂ List.cons hw (ih hrest)

end

section
variable {p : Params} {lines : List (List Char)} {seed : BitVec 64}

theorem createFromText_eq_create {prog : List Word} (h : lines.map parseLine = prog.map some) :
    createFromText p lines seed = create p prog seed := by
  rw [createFromText, create, decodeLines_eq_decodeProgram h]

theorem createFromText_eq_error_iff {e : DecodeError} :
    createFromText p lines seed = .error e ↔
      ∃ n text, lines[n]? = some text ∧ BadLine p.zeroGroupDecode n text e ∧
        ∀ j < n, GoodLine p.zeroGroupDecode lines[j]? := by
  have h := decodeLines_eq_error_iff (z := p.zeroGroupDecode) (k := 0) (lines := lines) (e := e)
  simp only [Nat.zero_add] at h
  rw [← h, createFromText]
  cases decodeLines p.zeroGroupDecode 0 lines <;> simp

theorem map_parseLine_of_createFromText {s : State} (h : createFromText p lines seed = .ok s) :
    ∃ prog : List Word, lines.map parseLine = prog.map some := by
  unfold createFromText at h
  cases hds : decodeLines p.zeroGroupDecode 0 lines with
  | error e => simp [hds] at h
  | ok ds => exact ⟨_, map_parseLine_of_decodeLines hds⟩

end

/-- Settles O7: lines that decode are the lines of their words, and the first bad line is malformed or illegal. -/
theorem textCreatesItsWords : Obligations.TextCreatesItsWords := by
  intro p lines seed
  refine ⟨fun s => ⟨fun h => ?_, ?_⟩, fun k text => ?_, fun k w e => ?_⟩
  · obtain ⟨prog, hprog⟩ := map_parseLine_of_createFromText h
    exact ⟨prog, hprog, createFromText_eq_create hprog ▸ h⟩
  · rintro ⟨prog, hprog, h⟩
    exact (createFromText_eq_create hprog).trans h
  · rw [createFromText_eq_error_iff]
    constructor
    · rintro ⟨n, text', hn, hbad, hbefore⟩
      cases hbad with
      | malformed hw => exact ⟨hn, hw, hbefore⟩
    · rintro ⟨hn, hw, hbefore⟩
      exact ⟨k, text, hn, .malformed hw, hbefore⟩
  · rw [createFromText_eq_error_iff]
    constructor
    · rintro ⟨n, text, hn, hbad, hbefore⟩
      cases hbad with
      | illegal hw hi => exact ⟨Option.bind_eq_some_iff.2 ⟨text, hn, hw⟩, hi, hbefore⟩
    · rintro ⟨hw, hi, hbefore⟩
      obtain ⟨text, hn, hw⟩ := Option.bind_eq_some_iff.1 hw
      exact ⟨k, text, hn, .illegal hw hi, hbefore⟩

end Sys2Proof.Machine

/-! The cycle (40_cycle.md) in the three conditions of the core, through what the fetched instruction answers. -/

namespace Sys2Proof.Machine

variable {s t : State} {i : Instr} {d : Decoded}

/-! ### After the instruction: the decay, and what the cycle reports (R116 to R119) -/

theorem decayByte_eq_ofNat (b : Byte) : decayByte b = BitVec.ofNat 8 (b.toNat - 1) := by
  rw [← decayByte_toNat, BitVec.ofNat_toNat, BitVec.setWidth_eq]

theorem State.decay_eq (s : State) :
    s.decay = { s with dt := BitVec.ofNat 8 (s.dt.toNat - 1), st := BitVec.ofNat 8 (s.st.toNat - 1) } := by
  simp only [State.decay, decayByte_eq_ofNat]

@[simp] theorem State.finish_status (s : State) : s.finish.status = s.status := by
  cases h : s.status with
  | running => rw [finish_of_running h, State.decay_status, h]
  | faulted k => rw [finish_of_faulted h, h]

@[simp] theorem State.finish_frameChanged (s : State) : s.finish.frameChanged = s.frameChanged := by
  cases h : s.status with
  | running => rw [finish_of_running h, State.decay_frameChanged]
  | faulted k => rw [finish_of_faulted h]

theorem report_of_running (h : s.status = .running) :
    s.report = .ok (if s.frameChanged then some s.fb else none) (decide (0 < s.st.toNat)) := by
  simp only [State.report, h]

theorem report_of_faulted {k : Fault} (h : s.status = .faulted k) : s.report = .fault k := by
  simp only [State.report, h]

/-! ### A cycle through what its instruction answers -/

theorem cycle_of_exec (hrun : s.status = .running) (hfetch : s.program[s.pc]? = some d)
    (he : exec d.instr s.begin = .next t) : cycle s = .next (t.finish, t.finish.report) := by
  rw [cycle_of_fetch hrun hfetch, he, finishCycle]

theorem step_of_cycle {r : CycleResult} (hrun : s.status = .running) (h : cycle s = .next (t, r)) :
    step s = .next t := by
  rw [step_of_running hrun, h, dropResult]

/-- A cycle that fetched an instruction left and reported the finished state of that instruction. -/
theorem cycle_of_fetch_cases {r : CycleResult} (hrun : s.status = .running) (hfetch : s.program[s.pc]? = some d)
    (h : cycle s = .next (t, r)) : ∃ u, exec d.instr s.begin = .next u ∧ t = u.finish ∧ r = t.report := by
  obtain ⟨u, he, -⟩ := exec_effect d.instr s.begin
  rw [cycle_of_exec hrun hfetch he] at h
  cases h
  exact ⟨u, he, rfl, rfl⟩

/-! ### The frame flag (R30, R243) -/

/-- DrawSprite marks the frame changed unless it raised MemoryBounds. -/
theorem frameChanged_of_exec_drawSprite {x y : RegIdx} {n : BitVec 4} (h : exec (.drawSprite x y n) s = .next t)
    (hrun : t.status = .running) : t.frameChanged = true := by
  by_cases htouch : s.CanTouch n.toNat
  · cases (State.withAddrs_of_canTouch htouch _).symm.trans h
    rfl
  · cases (State.withAddrs_of_not_canTouch htouch _).symm.trans h
    simp at hrun

/-- An instruction that finds the frame flag clear, as in every cycle (R112), sets it in the two named cases. -/
theorem frameChanged_iff_of_exec (hframe : s.frameChanged = false) (hrun : s.status = .running)
    (h : exec i s = .next t) :
    t.frameChanged = true ↔ i = .clearDisplay ∨ (t.status = .running ∧ ∃ x y n, i = .drawSprite x y n) := by
  constructor
  · intro hchanged
    obtain ⟨f, -, rfl⟩ | hc := exec_cases h
    · simp [hframe] at hchanged
    · have hstatus : t.status = .running := hc.status_eq.trans hrun
      cases hc with
      | clear => exact .inl rfl
      | draw x y n => exact .inr ⟨hstatus, x, y, n, rfl⟩
      | _ => simp [hframe] at hchanged
  · rintro (rfl | ⟨hrun', x, y, n, rfl⟩)
    · cases h
      rfl
    · exact frameChanged_of_exec_drawSprite h hrun'

/-! ### The obligations -/

/-- Settles O21: the finished state reports itself, and finishing keeps the frame flag the instruction left. -/
theorem cycleReportsFrameAndSound : Obligations.CycleReportsFrameAndSound := by
  intro s t d r hrun hfetch h
  obtain ⟨u, he, rfl, rfl⟩ := cycle_of_fetch_cases hrun hfetch h
  refine ⟨report_of_running, fun k => report_of_faulted, ?_⟩
  rw [State.finish_frameChanged, State.finish_status]
  exact frameChanged_iff_of_exec s.begin_frameChanged hrun he

/-- Settles O22: each of the three conditions of the core has its answer, and `exec` always gives a next state. -/
theorem everyCycleAnswers : Obligations.EveryCycleAnswers := by
  intro s
  cases hs : s.status with
  | faulted k => exact ⟨s, .fault k, cycle_of_faulted hs, fun h => nomatch h⟩
  | running =>
    suffices h : ∃ t r, cycle s = .next (t, r) by
      obtain ⟨t, r, hcycle⟩ := h
      exact ⟨t, r, hcycle, fun _ => step_of_cycle hs hcycle⟩
    cases hf : s.program[s.pc]? with
    | none => exact ⟨_, _, cycle_of_fetch_none hs hf⟩
    | some d =>
      obtain ⟨u, he, -⟩ := exec_effect d.instr s.begin
      exact ⟨_, _, cycle_of_exec hs hf he⟩

/-- Settles O17: the step leaves the finished state of the instruction, which is its decay or, faulted, itself. -/
theorem stepRunsFetchedInstruction : Obligations.StepRunsFetchedInstruction := by
  intro s d hrun hfetch
  obtain ⟨t, he, -⟩ := exec_effect d.instr s.begin
  have hstep : step s = .next t.finish := step_of_cycle hrun (cycle_of_exec hrun hfetch he)
  refine ⟨t, he, fun ht => ?_, fun k ht => ?_⟩
  · rw [hstep, finish_of_running ht, State.decay_eq]
  · rw [hstep, finish_of_faulted ht]

/-- Settles O19: at the program's end nothing is fetched. -/
theorem haltedCycleReturnsHalt : Obligations.HaltedCycleReturnsHalt := by
  intro s hrun hpc
  have hcycle := cycle_of_fetch_none hrun (List.getElem?_eq_none hpc)
  exact ⟨hcycle, step_of_cycle hrun hcycle⟩

/-- Settles O20. -/
theorem faultedCoreIsFinal : Obligations.FaultedCoreIsFinal :=
  fun _ _ h => ⟨cycle_of_faulted h, step_of_faulted h⟩

end Sys2Proof.Machine

/-! Flow control (41_flow_control.md): the two jumps, and the call and return by the state of the stack. -/

namespace Sys2Proof

/-! ### The group of a word known under a mask -/

/-- A mask that covers the top digit fixes the group of the word: the "Encoding" line of an instruction's rule in the
spelling of the decoder's lemmas. -/
theorem group_of_masked {w mask value : Word} (h : w &&& mask = value) (hmask : fieldGroup mask = BitVec.allOnes 4) :
    w.toNat / 4096 = value.toNat / 4096 := by
  have hgroup : fieldGroup w = fieldGroup value := extract_of_masked h 12 4 hmask
  rw [← fieldGroup_toNat, hgroup, fieldGroup_toNat]

end Sys2Proof

namespace Sys2Proof.Machine

variable {s t : State}

/-! ### Frames -/

theorem memSame_of_mem_eq (h : t.mem = s.mem) : MemSame s t := fun a => congrArg (Memory.read · a) h

theorem OnlyPc.memSame (h : OnlyPc s t) : MemSame s t :=
  have hmem : t.mem = { s with pc := t.pc }.mem := congrArg State.mem h
  memSame_of_mem_eq hmem

theorem OnlyPcStack.memSame (h : OnlyPcStack s t) : MemSame s t :=
  have hmem : t.mem = { s with pc := t.pc, stack := t.stack }.mem := congrArg State.mem h
  memSame_of_mem_eq hmem

theorem onlyPc_setPc (s : State) (p : Nat) : OnlyPc s (s.setPc p) := rfl

/-! ### What each instruction answers -/

theorem exec_jump (nnn : Addr) (s : State) : exec (.jump nnn) s = .next (s.setPc nnn.toNat) := rfl

theorem exec_jumpIndexed (nnn : Addr) (s : State) :
    exec (.jumpIndexed nnn) s = .next (s.setPc (indexedTarget s nnn)) := rfl

theorem exec_callSubroutine_of_room (nnn : Addr) (h : s.stack.length < 48) :
    exec (.callSubroutine nnn) s = .next ((s.push s.pc).setPc nnn.toNat) := if_neg (Nat.not_le_of_lt h)

theorem exec_callSubroutine_of_full (nnn : Addr) (h : 48 ≤ s.stack.length) :
    exec (.callSubroutine nnn) s = .next (s.raise .stackOverflow) := if_pos h

theorem exec_returnFromSubroutine_of_cons {top : Nat} {rest : List Nat} (h : s.stack = top :: rest) :
    exec .returnFromSubroutine s = .next { s with stack := rest, pc := top } := by
  simp only [exec, execReturnFromSubroutine, h]

theorem exec_returnFromSubroutine_of_nil (h : s.stack = []) :
    exec .returnFromSubroutine s = .next (s.raise .stackUnderflow) := by
  simp only [exec, execReturnFromSubroutine, h]

/-! ### The obligations -/

/-- Settles O33: the two sides of the capacity test. -/
theorem callPushesReturnIndex : Obligations.CallPushesReturnIndex := by
  intro nnn s
  refine ⟨fun hroom => ?_, fun hfull => ⟨_, exec_callSubroutine_of_full nnn hfull, rfl⟩⟩
  have hframe : OnlyPcStack s ((s.push s.pc).setPc nnn.toNat) := rfl
  exact ⟨_, exec_callSubroutine_of_room nnn hroom, hframe, hframe.memSame, rfl, rfl⟩

/-- Settles O34: the two shapes of the stack. -/
theorem returnPopsIntoPc : Obligations.ReturnPopsIntoPc := by
  intro s
  refine ⟨fun top rest hstack => ?_, fun hempty => ⟨_, exec_returnFromSubroutine_of_nil hempty, rfl⟩⟩
  have hframe : OnlyPcStack s { s with stack := rest, pc := top } := rfl
  exact ⟨_, exec_returnFromSubroutine_of_cons hstack, hframe, hframe.memSame, rfl, rfl⟩

/-- Settles O35: the stack the call leaves has the caller's pc on top, which is all the return reads. -/
theorem returnUndoesMatchingCall : Obligations.ReturnUndoesMatchingCall := by
  intro nnn s hroom
  refine ⟨_, exec_callSubroutine_of_room nnn hroom, fun u hu => ?_⟩
  have hstack : u.stack = s.pc :: s.stack := hu
  exact ⟨_, exec_returnFromSubroutine_of_cons hstack, rfl, rfl⟩

/-- Settles O31: any target is accepted, and the cycle at one past the program's end fetches nothing. -/
theorem jumpSetsPc : Obligations.JumpSetsPc := by
  refine ⟨fun z w hw => ?encoding, fun nnn s => ?effect⟩
  case encoding =>
    obtain ⟨hjump, -⟩ := groupsOneToSevenDecode z w
    exact hjump (group_of_masked hw (by decide))
  case effect =>
    have hframe := onlyPc_setPc s nnn.toNat
    refine ⟨_, exec_jump nnn s, hframe, hframe.memSame, rfl, fun hrun hpast => ?_⟩
    exact ⟨_, cycle_of_fetch_none hrun (List.getElem?_eq_none hpast)⟩

/-- Settles O32: the target is not reduced, and bounded by the largest V0 plus the largest address. -/
theorem jumpIndexedAddsV0 : Obligations.JumpIndexedAddsV0 := by
  intro nnn s
  have hframe := onlyPc_setPc s (indexedTarget s nnn)
  exact ⟨_, exec_jumpIndexed nnn s, hframe, hframe.memSame, rfl, indexedTarget_le s nnn⟩

end Sys2Proof.Machine

/-! Conditional skips (42_skips.md): the pc each skip leaves, alone and at the end of its step. -/

namespace Sys2Proof.Machine

variable {s : State} {i : Instr} {d : Decoded}

/-! ### What each skip answers (R151 to R154) -/

theorem State.skipIf_decide (s : State) (P : Prop) [Decidable P] :
    s.skipIf (decide P) = s.setPc (if P then s.pc + 1 else s.pc) := by
  simp only [State.skipIf_eq_setPc, decide_eq_true_eq]

theorem State.skipIf_decide_not (s : State) (P : Prop) [Decidable P] :
    s.skipIf (decide ¬ P) = s.setPc (if P then s.pc else s.pc + 1) := by
  rw [State.skipIf_decide, ite_not]

theorem exec_skipIfRegEqualsConst (x : RegIdx) (kk : Byte) (s : State) :
    exec (.skipIfRegEqualsConst x kk) s = .next (s.setPc (if s.getV x = kk then s.pc + 1 else s.pc)) :=
  congrArg Host.Outcome.next (s.skipIf_decide _)

theorem exec_skipIfRegNotEqualsConst (x : RegIdx) (kk : Byte) (s : State) :
    exec (.skipIfRegNotEqualsConst x kk) s = .next (s.setPc (if s.getV x = kk then s.pc else s.pc + 1)) :=
  congrArg Host.Outcome.next (s.skipIf_decide_not _)

theorem exec_skipIfRegEqualsReg (x y : RegIdx) (s : State) :
    exec (.skipIfRegEqualsReg x y) s = .next (s.setPc (if s.getV x = s.getV y then s.pc + 1 else s.pc)) :=
  congrArg Host.Outcome.next (s.skipIf_decide _)

theorem exec_skipIfRegNotEqualsReg (x y : RegIdx) (s : State) :
    exec (.skipIfRegNotEqualsReg x y) s = .next (s.setPc (if s.getV x = s.getV y then s.pc else s.pc + 1)) :=
  congrArg Host.Outcome.next (s.skipIf_decide_not _)

/-! ### An instruction that only sets the pc, alone and in its step -/

theorem exec_onlyPc_of_setPc {p : Nat} (h : exec i s = .next (s.setPc p)) :
    ∃ t, exec i s = .next t ∧ OnlyPc s t ∧ MemSame s t ∧ t.pc = p :=
  have hframe := onlyPc_setPc s p
  ⟨_, h, hframe, hframe.memSame, rfl⟩

/-- The decay after the instruction (R116) keeps the pc it set, and the registers. -/
theorem step_of_exec_setPc {p : Nat} (hrun : s.status = .running) (hfetch : s.program[s.pc]? = some d)
    (hi : d.instr = i) (he : exec i s.begin = .next (s.begin.setPc p)) :
    ∃ t, step s = .next t ∧ t.v = s.v ∧ t.pc = p := by
  subst hi
  refine ⟨_, step_of_cycle hrun (cycle_of_exec hrun hfetch he), ?_⟩
  have hstatus : (s.begin.setPc p).status = .running := hrun
  rw [finish_of_running hstatus]
  exact ⟨rfl, rfl⟩

/-! ### The obligations -/

/-- Settles O36: each skip sets the pc by its test, and bytes are equal when their values are. -/
theorem skipsTestTheirPredicate : Obligations.SkipsTestTheirPredicate := by
  intro x y kk s
  simp only [BitVec.toNat_inj]
  exact ⟨exec_onlyPc_of_setPc (exec_skipIfRegEqualsConst x kk s),
    exec_onlyPc_of_setPc (exec_skipIfRegNotEqualsConst x kk s),
    exec_onlyPc_of_setPc (exec_skipIfRegEqualsReg x y s),
    exec_onlyPc_of_setPc (exec_skipIfRegNotEqualsReg x y s)⟩

/-- Settles O37: the skip runs in the state whose pc is already j + 1 (R115) and whose registers are those of `s`. -/
theorem takenSkipPassesOneEntry : Obligations.TakenSkipPassesOneEntry := by
  intro s d hrun hfetch
  exact ⟨fun x kk hi => step_of_exec_setPc hrun hfetch hi (exec_skipIfRegEqualsConst x kk s.begin),
    fun x kk hi => step_of_exec_setPc hrun hfetch hi (exec_skipIfRegNotEqualsConst x kk s.begin),
    fun x y hi => step_of_exec_setPc hrun hfetch hi (exec_skipIfRegEqualsReg x y s.begin),
    fun x y hi => step_of_exec_setPc hrun hfetch hi (exec_skipIfRegNotEqualsReg x y s.begin)⟩

end Sys2Proof.Machine

/-! Register loads, arithmetic and bitwise operations (43_arith_bitwise.md): what a write of V[x] leaves, alone or with
the flag after it, and the results and flags of R178 to R182 as numbers. -/

namespace Sys2Proof

/-! ### The "Encoding" line of an instruction's rule -/

/-- An instruction that its group alone selects. -/
theorem encodedBy_of_group {value : Word} {f : Word → Instr}
    (h : ∀ z w, w.toNat / 4096 = value.toNat / 4096 → decode z w = .ok (f w)) : EncodedBy 0xF000 value f :=
  fun z w hw => h z w (group_of_masked hw (by decide))

theorem lowNibble_of_masked {w mask value : Word} (h : w &&& mask = value) (hmask : fieldN mask = BitVec.allOnes 4) :
    w.toNat % 16 = value.toNat % 16 := by
  have hnibble : fieldN w = fieldN value := extract_of_masked h 0 4 hmask
  rw [← fieldN_toNat, hnibble, fieldN_toNat]

/-- An instruction of group 8, which w4 selects (R78). -/
theorem encodedBy_of_group_lowNibble {value : Word} {f : Word → Instr}
    (h : ∀ z w, w.toNat / 4096 = value.toNat / 4096 → w.toNat % 16 = value.toNat % 16 → decode z w = .ok (f w)) :
    EncodedBy 0xF00F value f :=
  fun z w hw => h z w (group_of_masked hw (by decide)) (lowNibble_of_masked hw (by decide))

end Sys2Proof

namespace Sys2Proof.Machine

variable {s t : State} {i : Instr} {x : RegIdx}

/-! ### Frames of the two register writes -/

theorem OnlyRegs.memSame (h : OnlyRegs s t) : MemSame s t :=
  have hmem : t.mem = { s with v := t.v }.mem := congrArg State.mem h
  memSame_of_mem_eq hmem

theorem onlyRegs_setV (s : State) (x : RegIdx) (b : Byte) : OnlyRegs s (s.setV x b) := rfl

theorem onlyRegs_setResultAndFlag (s : State) (x : RegIdx) (result flag : Byte) :
    OnlyRegs s (s.setResultAndFlag x result flag) := rfl

theorem regsSameExcept_setV (s : State) (x : RegIdx) (b : Byte) : RegsSameExcept [x] s (s.setV x b) :=
  fun _ hr => State.getV_setV_other s b (List.ne_of_not_mem_cons hr)

theorem regsSameExcept_setResultAndFlag (s : State) (x : RegIdx) (result flag : Byte) :
    RegsSameExcept [x, 15] s (s.setResultAndFlag x result flag) := by
  intro r hr
  obtain ⟨hx, hF⟩ : r ≠ x ∧ r ≠ 15 := by simpa using hr
  rw [State.getV_setResultAndFlag, if_neg hF, if_neg hx]

/-! ### An instruction that only writes registers, by which of the two writes it answers -/

/-- An instruction with no flag changes its destination, and whatever follows from the byte written holds of it. -/
theorem exec_onlyRegs_of_setV {b : Byte} {Result : State → Prop} (h : exec i s = .next (s.setV x b))
    (hresult : ∀ t, t.getV x = b → Result t) :
    ∃ t, exec i s = .next t ∧ OnlyRegs s t ∧ MemSame s t ∧ RegsSameExcept [x] s t ∧ Result t :=
  have hframe := onlyRegs_setV s x b
  ⟨_, h, hframe, hframe.memSame, regsSameExcept_setV s x b, hresult _ (s.getV_setV_same x b)⟩

/-- An instruction with a flag leaves the flag in VF, also for x = 0xF (R171, decision D5), and the result in any other
destination. -/
theorem exec_onlyRegs_of_setResultAndFlag {result flag : Byte} {m n : Nat}
    (h : exec i s = .next (s.setResultAndFlag x result flag)) (hresult : result.toNat = m) (hflag : flag.toNat = n) :
    ∃ t, exec i s = .next t ∧ OnlyRegs s t ∧ MemSame s t ∧ RegsSameExcept [x, 15] s t ∧
      (x ≠ 15 → (t.getV x).toNat = m) ∧ (t.getV 15).toNat = n := by
  have hframe := onlyRegs_setResultAndFlag s x result flag
  refine ⟨_, h, hframe, hframe.memSame, regsSameExcept_setResultAndFlag s x result flag, fun hx => ?_, ?_⟩
  · rw [State.getV_setResultAndFlag, if_neg hx, if_pos rfl, hresult]
  · rw [State.getV_setResultAndFlag, if_pos rfl, hflag]

/-! ### Results and flags as numbers (R178 to R182) -/

theorem flagByte_toNat (b : Bool) : (flagByte b).toNat = b.toNat := by
  cases b <;> rfl

theorem flagByte_decide_toNat (p : Prop) [Decidable p] : (flagByte (decide p)).toNat = if p then 1 else 0 := by
  rw [flagByte_toNat, Bool.toNat, Bool.cond_decide]

theorem carryFlag_toNat (a b : Byte) : (carryFlag a b).toNat = if 255 < a.toNat + b.toNat then 1 else 0 :=
  flagByte_decide_toNat _

theorem noBorrowFlag_toNat (a b : Byte) : (noBorrowFlag a b).toNat = if b.toNat ≤ a.toNat then 1 else 0 :=
  flagByte_decide_toNat _

theorem shiftedOutRight_toNat (a : Byte) : (shiftedOutRight a).toNat = a.toNat % 2 := by
  rw [shiftedOutRight, flagByte_toNat, ← BitVec.testBit_toNat, Nat.toNat_testBit, pow_zero, Nat.div_one]

theorem shiftedOutLeft_toNat (a : Byte) : (shiftedOutLeft a).toNat = a.toNat / 128 := by
  have ha := a.isLt
  rw [shiftedOutLeft, flagByte_toNat, ← BitVec.testBit_toNat, Nat.toNat_testBit]
  omega

theorem byte_sub_toNat (a b : Byte) : (a - b).toNat = (a.toNat + 256 - b.toNat) % 256 := by
  have hb := b.isLt
  rw [BitVec.toNat_sub]
  omega

theorem byte_ushiftRight_one_toNat (a : Byte) : (a >>> 1).toNat = a.toNat / 2 := by
  rw [BitVec.toNat_ushiftRight, Nat.shiftRight_eq_div_pow, pow_one]

theorem byte_shiftLeft_one_toNat (a : Byte) : (a <<< 1).toNat = 2 * a.toNat % 256 := by
  rw [BitVec.toNat_shiftLeft, Nat.shiftLeft_eq, pow_one, Nat.mul_comm]

/-! ### The obligations -/

/-- Settles O38: group 6, and w4 = 0 in group 8. -/
theorem registerLoadsSetDestination : Obligations.RegisterLoadsSetDestination := by
  refine ⟨encodedBy_of_group fun z w hg => ?const, encodedBy_of_group_lowNibble fun z w hg hn => ?reg,
    fun x y kk s => ⟨exec_onlyRegs_of_setV rfl fun _ hx => hx, exec_onlyRegs_of_setV rfl fun _ hx => hx⟩⟩
  case const =>
    obtain ⟨-, -, -, -, -, -, hload, -⟩ := groupsOneToSevenDecode z w
    exact hload hg
  case reg =>
    obtain ⟨hload, -⟩ := groupEightDecodes z w hg
    exact hload hn

/-- Settles O39: group 7, and the sum of bytes. -/
theorem addConstWrapsWithoutFlag : Obligations.AddConstWrapsWithoutFlag := by
  refine ⟨encodedBy_of_group fun z w hg => ?encoding, fun x kk s => exec_onlyRegs_of_setV rfl fun t hx => ?sum⟩
  case encoding =>
    obtain ⟨-, -, -, -, -, -, -, hadd⟩ := groupsOneToSevenDecode z w
    exact hadd hg
  case sum => rw [hx, BitVec.toNat_add]

/-- Settles O40: w4 = 1, 2 and 3 in group 8, and the bits of each result. -/
theorem bitwiseOperationsCombineBits : Obligations.BitwiseOperationsCombineBits := by
  refine ⟨encodedBy_of_group_lowNibble fun z w hg hn => ?or, encodedBy_of_group_lowNibble fun z w hg hn => ?and,
    encodedBy_of_group_lowNibble fun z w hg hn => ?xor, fun x y s =>
      ⟨exec_onlyRegs_of_setV rfl fun t hx b => ?orBits, exec_onlyRegs_of_setV rfl fun t hx b => ?andBits,
        exec_onlyRegs_of_setV rfl fun t hx b => ?xorBits⟩⟩
  case or =>
    obtain ⟨-, hor, -⟩ := groupEightDecodes z w hg
    exact hor hn
  case and =>
    obtain ⟨-, -, hand, -⟩ := groupEightDecodes z w hg
    exact hand hn
  case xor =>
    obtain ⟨-, -, -, hxor, -⟩ := groupEightDecodes z w hg
    exact hxor hn
  case orBits => rw [hx, BitVec.getLsbD_or]
  case andBits => rw [hx, BitVec.getLsbD_and]
  case xorBits => rw [hx, BitVec.getLsbD_xor, Bool.bne_eq_xor]

/-- Settles O41: the byte is the reduced sum, and the carry is tested on the sum before the reduction. -/
theorem addRegSetsSumAndCarry : Obligations.AddRegSetsSumAndCarry := by
  intro x y s
  exact exec_onlyRegs_of_setResultAndFlag rfl (BitVec.toNat_add _ _) (carryFlag_toNat _ _)

/-- Settles O42: the reversed subtraction is the same with the operands exchanged. -/
theorem subtractionsSetNoBorrow : Obligations.SubtractionsSetNoBorrow := by
  intro x y s
  exact ⟨exec_onlyRegs_of_setResultAndFlag rfl (byte_sub_toNat _ _) (noBorrowFlag_toNat _ _),
    exec_onlyRegs_of_setResultAndFlag rfl (byte_sub_toNat _ _) (noBorrowFlag_toNat _ _)⟩

/-- Settles O43: the bit shifted out is bit 0 or bit 7 of V[x]; V[y] is not read. -/
theorem shiftsSetBitShiftedOut : Obligations.ShiftsSetBitShiftedOut := by
  intro x y s
  exact ⟨exec_onlyRegs_of_setResultAndFlag rfl (byte_ushiftRight_one_toNat _) (shiftedOutRight_toNat _),
    exec_onlyRegs_of_setResultAndFlag rfl (byte_shiftLeft_one_toNat _) (shiftedOutLeft_toNat _)⟩

end Sys2Proof.Machine

/-! The index register and memory transfers (44_memory_index.md): the two writes of I, the bytes a store leaves at the
addresses it touches and elsewhere, and the registers a load leaves. -/

namespace Sys2Proof.Machine

variable {s t : State} {i : Instr} {x : RegIdx}

/-! ### An instruction that only sets I (R200, R201) -/

theorem OnlyIndex.memSame (h : OnlyIndex s t) : MemSame s t :=
  have hmem : t.mem = { s with i := t.i }.mem := congrArg State.mem h
  memSame_of_mem_eq hmem

theorem onlyIndex_setI (s : State) (a : Addr) : OnlyIndex s (s.setI a) := rfl

theorem exec_onlyIndex_of_setI {a : Addr} {n : Nat} (h : exec i s = .next (s.setI a)) (ha : a.toNat = n) :
    ∃ t, exec i s = .next t ∧ OnlyIndex s t ∧ MemSame s t ∧ t.i.toNat = n :=
  have hframe := onlyIndex_setI s a
  ⟨_, h, hframe, hframe.memSame, ha⟩

/-! ### The addresses an instruction touches -/

/-- The addresses of `n` bytes from I on, in the order of their offsets: what `withAddrs` hands to an instruction that
may touch them (`State.withAddrs_of_canTouch`). -/
def State.touched (s : State) (n : Nat) : List Addr := (List.range n).map fun k => BitVec.ofNat 12 (s.i.toNat + k)

@[simp] theorem State.length_touched (s : State) (n : Nat) : (s.touched n).length = n := by
  simp [State.touched]

theorem State.touched_getElem? {n k : Nat} {a : Addr} (h : s.CanTouch n) (hk : k < n) (ha : s.ea k = .ok a) :
    (s.touched n)[k]? = some a := by
  obtain rfl : BitVec.ofNat 12 (s.i.toNat + k) = a := Except.ok.inj ((State.ea_of_canTouch h hk).symm.trans ha)
  simp [State.touched, hk]

theorem State.exists_ea_of_mem_touched {n : Nat} {a : Addr} (h : s.CanTouch n) (ha : a ∈ s.touched n) :
    ∃ k, k < n ∧ s.ea k = .ok a := by
  obtain ⟨k, hk, rfl⟩ := List.mem_map.1 ha
  have hk := List.mem_range.1 hk
  exact ⟨k, hk, State.ea_of_canTouch h hk⟩

/-- Also where the addresses wrap, no two offsets meet. -/
theorem State.nodup_touched (s : State) {n : Nat} (hn : n ≤ 4096) : (s.touched n).Nodup := by
  refine List.Nodup.map_on (fun j hj k hk h => ?_) List.nodup_range
  exact offset_inj ((List.mem_range.1 hj).trans_le hn) ((List.mem_range.1 hk).trans_le hn) h

/-! ### Stores (R202, R203) -/

/-- The state after the bytes of the list are stored at the `n` addresses from I on, one byte to an address. -/
def State.store (s : State) (n : Nat) (bs : List Byte) : State :=
  { s with mem := s.mem.writeAll ((s.touched n).zip bs) }

theorem exec_storeBCD (h : s.CanTouch 3) :
    exec (.storeBCD x) s = .next (s.store 3 (bcdDigits (s.getV x))) := State.withAddrs_of_canTouch h _

theorem exec_dumpRegistersToMemory (h : s.CanTouch (x.val + 1)) :
    exec (.dumpRegistersToMemory x) s = .next (s.store (x.val + 1) s.v.toList) := State.withAddrs_of_canTouch h _

theorem onlyMem_store (s : State) (n : Nat) (bs : List Byte) : OnlyMem s (s.store n bs) := rfl

/-- The touched addresses are distinct, so no later byte of the store overwrites the one at offset `k`. -/
theorem State.read_store {n k : Nat} {bs : List Byte} {a : Addr} {b : Byte} (h : s.CanTouch n) (hn : n ≤ 4096)
    (hlen : n ≤ bs.length) (hk : k < n) (hb : bs[k]? = some b) (ha : s.ea k = .ok a) :
    (s.store n bs).mem.read a = b := by
  have hpair : (a, b) ∈ (s.touched n).zip bs :=
    List.mem_of_getElem? (List.getElem?_zip_eq_some.2 ⟨State.touched_getElem? h hk ha, hb⟩)
  have hdistinct : (((s.touched n).zip bs).map Prod.fst).Nodup := by
    rw [List.map_fst_zip ((s.length_touched n).trans_le hlen)]
    exact s.nodup_touched hn
  exact Memory.read_writeAll_mem s.mem _ hdistinct hpair

theorem State.read_store_of_untouched {n : Nat} {bs : List Byte} {a : Addr} (h : s.CanTouch n)
    (ha : ∀ k, k < n → s.ea k ≠ .ok a) : (s.store n bs).mem.read a = s.mem.read a := by
  refine Memory.read_writeAll_other s.mem _ a ?_
  rintro ⟨b, v⟩ hpair rfl
  obtain ⟨k, hk, hea⟩ := State.exists_ea_of_mem_touched h (List.of_mem_zip hpair).1
  exact ha k hk hea

theorem State.v_toList_getElem? (s : State) (k : RegIdx) : s.v.toList[k.val]? = some (s.getV k) := by
  simp [State.getV]

/-! ### Loads (R204) -/

/-- The state after V0 to V[x] are loaded from the addresses from I on. -/
def State.load (s : State) (x : RegIdx) : State := { s with v := loadRegs s.mem 0 (s.touched (x.val + 1)) s.v }

theorem exec_loadRegistersFromMemory (h : s.CanTouch (x.val + 1)) :
    exec (.loadRegistersFromMemory x) s = .next (s.load x) := State.withAddrs_of_canTouch h _

theorem onlyRegs_load (s : State) (x : RegIdx) : OnlyRegs s (s.load x) := rfl

theorem State.getV_load {k : RegIdx} {a : Addr} (h : s.CanTouch (x.val + 1)) (hk : k ≤ x) (ha : s.ea k.val = .ok a) :
    (s.load x).getV k = s.mem.read a := by
  have hlt : k.val < x.val + 1 := Nat.lt_succ_of_le hk
  obtain ⟨hin, haddr⟩ := List.getElem?_eq_some_iff.1 (State.touched_getElem? h hlt ha)
  have hread := loadRegs_getElem s.mem 0 (s.touched (x.val + 1)) s.v k.val k.isLt
  rw [dif_pos ⟨k.val.zero_le, hin⟩] at hread
  exact hread.trans (congrArg s.mem.read haddr)

/-! ### The obligations -/

/-- Settles O44: group A. -/
theorem setIndexLoadsAddress : Obligations.SetIndexLoadsAddress := by
  refine ⟨encodedBy_of_group fun z w hg => ?encoding, fun nnn s => exec_onlyIndex_of_setI rfl rfl⟩
  case encoding =>
    obtain ⟨-, -, hindex, -⟩ := groupsNineToThirteenDecode z w
    exact hindex hg

/-- Settles O45: twelve bits hold the sum modulo 4096. -/
theorem addIndexWrapsWithoutFlag : Obligations.AddIndexWrapsWithoutFlag :=
  fun _ _ => exec_onlyIndex_of_setI rfl (BitVec.toNat_ofNat _ _)

/-- Settles O46: each of the three digits fits in its byte. -/
theorem storeBCDWritesDigits : Obligations.StoreBCDWritesDigits := by
  intro x s h
  have hv := (s.getV x).isLt
  have hdigit {k n : Nat} (hk : k < 3) (hb : (bcdDigits (s.getV x))[k]? = some (BitVec.ofNat 8 n)) (hn : n < 256)
      (a : Addr) (ha : s.ea k = .ok a) : ((s.store 3 (bcdDigits (s.getV x))).mem.read a).toNat = n := by
    rw [State.read_store h (by decide) le_rfl hk hb ha, BitVec.toNat_ofNat, Nat.mod_eq_of_lt hn]
  refine ⟨_, exec_storeBCD h, onlyMem_store s _ _, ?hundreds, ?tens, ?units, fun _ => State.read_store_of_untouched h⟩
  case hundreds => exact hdigit (by decide) rfl (by omega)
  case tens => exact hdigit (by decide) rfl (by omega)
  case units => exact hdigit (by decide) rfl (by omega)

/-- Settles O47: the byte for offset `k` is `V[k]`. -/
theorem dumpWritesRegisters : Obligations.DumpWritesRegisters := by
  intro x s h
  have hlen : x.val + 1 ≤ s.v.toList.length := x.isLt.trans_eq s.v.length_toList.symm
  refine ⟨_, exec_dumpRegistersToMemory h, onlyMem_store s _ _, fun k hk a ha => ?_, fun a ha => ?_⟩
  · exact State.read_store h (by omega) hlen (Nat.lt_succ_of_le hk) (s.v_toList_getElem? k) ha
  · exact State.read_store_of_untouched h fun k hk => ha k (Nat.le_of_lt_succ hk)

/-- Settles O48: the load writes the register file alone, and no register above x. -/
theorem loadReadsRegisters : Obligations.LoadReadsRegisters := by
  intro x s h
  have hframe := onlyRegs_load s x
  exact ⟨_, exec_loadRegistersFromMemory h, hframe, hframe.memSame, fun k hk a => State.getV_load h hk,
    fun k => getV_loadRegs_of_lt (s.length_touched _)⟩

/-- Settles O49: the load finds at each address the register that the dump put there, since the addresses depend on I
and the parameters alone. -/
theorem loadUndoesDump : Obligations.LoadUndoesDump := by
  intro x s h
  obtain ⟨t, hdump, -, hstored, -⟩ := dumpWritesRegisters x s h
  refine ⟨t, hdump, fun u hmem hi hparams => ?_⟩
  have hu : u.CanTouch (x.val + 1) := by rwa [State.CanTouch, hi, hparams]
  obtain ⟨w, hload, -, -, hloaded, habove⟩ := loadReadsRegisters x u hu
  refine ⟨w, hload, fun k hk => ?_, habove⟩
  have hea : s.ea k.val = .ok (BitVec.ofNat 12 (s.i.toNat + k.val)) :=
    State.ea_of_canTouch h (Nat.lt_succ_of_le hk)
  have hea' : u.ea k.val = s.ea k.val := by rw [State.ea, State.ea, hi, hparams]
  rw [hloaded k hk _ (hea'.trans hea), hmem, hstored k hk _ hea]

end Sys2Proof.Machine

/-! Timers (45_timers.md): the byte each timer instruction moves, and the decay at the end of a completed cycle. -/

namespace Sys2Proof.Machine

variable {s t : State} {i : Instr} {d : Decoded} {f : Option Framebuffer} {b : Bool}

/-! ### What each instruction answers (R220 to R222) -/

theorem exec_getDelayTimer (x : RegIdx) (s : State) : exec (.getDelayTimer x) s = .next (s.setV x s.dt) := rfl

theorem exec_setDelayTimer (x : RegIdx) (s : State) :
    exec (.setDelayTimer x) s = .next { s with dt := s.getV x } := rfl

theorem exec_setSoundTimer (x : RegIdx) (s : State) :
    exec (.setSoundTimer x) s = .next { s with st := s.getV x } := rfl

/-- Settles O50: FX07 is a register write, and the other two write one timer. -/
theorem timerInstructionsMoveBytes : Obligations.TimerInstructionsMoveBytes := by
  intro x s
  refine ⟨exec_onlyRegs_of_setV (exec_getDelayTimer x s) fun _ hx => hx, ?delay, ?sound⟩
  case delay => exact ⟨_, exec_setDelayTimer x s, rfl, memSame_of_mem_eq rfl⟩
  case sound => exact ⟨_, exec_setSoundTimer x s, rfl, memSame_of_mem_eq rfl⟩

/-! ### The timers after one instruction (R28) -/

theorem dt_of_exec_setDelayTimer {x : RegIdx} (h : exec (.setDelayTimer x) s = .next t) : t.dt = s.getV x := by
  cases h
  rfl

theorem st_of_exec_setSoundTimer {x : RegIdx} (h : exec (.setSoundTimer x) s = .next t) : t.st = s.getV x := by
  cases h
  rfl

theorem dt_eq_of_exec (h : exec i s = .next t) (hi : ∀ x, i ≠ .setDelayTimer x) : t.dt = s.dt := by
  obtain ⟨-, -, writer, -⟩ := stateElementsHaveNamedWriters i s t h
  by_contra hne
  obtain ⟨x, hx⟩ := writer hne
  exact hi x hx

theorem st_eq_of_exec (h : exec i s = .next t) (hi : ∀ x, i ≠ .setSoundTimer x) : t.st = s.st := by
  obtain ⟨-, -, -, writer, -⟩ := stateElementsHaveNamedWriters i s t h
  by_contra hne
  obtain ⟨x, hx⟩ := writer hne
  exact hi x hx

/-! ### A cycle that returns Ok decays (R117, R223) -/

@[simp] theorem State.getV_begin (s : State) (x : RegIdx) : s.begin.getV x = s.getV x := rfl

theorem running_of_report_ok (h : s.report = .ok f b) : s.status = .running := by
  cases hs : s.status with
  | running => rfl
  | faulted k => simp [report_of_faulted hs] at h

/-- A fetched instruction whose cycle returns Ok raised no fault, so the cycle leaves its decayed state. -/
theorem decay_of_cycle_ok (hrun : s.status = .running) (hfetch : s.program[s.pc]? = some d)
    (h : cycle s = .next (t, .ok f b)) : ∃ u, exec d.instr s.begin = .next u ∧ t = u.decay := by
  obtain ⟨u, he, rfl, hreport⟩ := cycle_of_fetch_cases hrun hfetch h
  have hu : u.status = .running := u.finish_status.symm.trans (running_of_report_ok hreport.symm)
  exact ⟨u, he, finish_of_running hu⟩

/-- Settles O26: the decay takes one from what the instruction left, which is V[x] in the timer it writes and the
value before the cycle in any other. -/
theorem timersDecayOncePerCycle : Obligations.TimersDecayOncePerCycle := by
  intro s t d f b hrun hfetch h
  obtain ⟨u, he, rfl⟩ := decay_of_cycle_ok hrun hfetch h
  simp only [State.decay_dt, State.decay_st, decayByte_toNat]
  refine ⟨fun x hx => ?delayWritten, fun hother => ?delayKept, fun x hx => ?soundWritten, fun hother => ?soundKept⟩
  case delayWritten =>
    rw [hx] at he
    rw [dt_of_exec_setDelayTimer he, State.getV_begin]
  case delayKept => rw [dt_eq_of_exec he hother, State.begin_dt]
  case soundWritten =>
    rw [hx] at he
    rw [st_of_exec_setSoundTimer he, State.getV_begin]
  case soundKept => rw [st_eq_of_exec he hother, State.begin_st]

end Sys2Proof.Machine

/-! The pseudo-random generator (46_random.md): RandomMasked draws once (R231), and no other instruction sees the
generator (R232, decision D27): it runs alike in two states that differ in `rng` only. -/

namespace Sys2Proof.Machine

variable {s t : State} {i : Instr} {n : Nat} {r : BitVec 64}

/-- `rng <- g`: the one write to the generator, beside the model's `setV` and `setI`. -/
def State.setRng (s : State) (g : BitVec 64) : State := { s with rng := g }

@[simp] theorem State.setRng_rng (s : State) (g : BitVec 64) : (s.setRng g).rng = g := rfl

/-! ### The draw of RandomMasked (R231) -/

theorem exec_randomMasked (x : RegIdx) (kk : Byte) (s : State) :
    exec (.randomMasked x kk) s =
      .next ((s.setRng (Config.prngNext s.rng)).setV x (lowByte (Config.prngNext s.rng) &&& kk)) := rfl

/-- The mask is one byte wide, so it makes no difference that the generator's upper bits were dropped before it. -/
theorem lowByte_and_toNat (a : BitVec 64) (kk : Byte) : (lowByte a &&& kk).toNat = a.toNat &&& kk.toNat := by
  have hlow : (lowByte a).toNat = a.toNat % 2 ^ 8 := BitVec.extractLsb'_toNat 0 8 a
  have hlt : a.toNat &&& kk.toNat < 2 ^ 8 := Nat.and_lt_two_pow a.toNat kk.isLt
  calc (lowByte a &&& kk).toNat
    _ = a.toNat % 2 ^ 8 &&& kk.toNat % 2 ^ 8 := by rw [BitVec.toNat_and, hlow, Nat.mod_eq_of_lt kk.isLt]
    _ = (a.toNat &&& kk.toNat) % 2 ^ 8 := Nat.and_mod_two_pow.symm
    _ = a.toNat &&& kk.toNat := Nat.mod_eq_of_lt hlt

/-- Settles O51: group C, and a register write in the state after one draw. -/
theorem randomMaskedDrawsOnce : Obligations.RandomMaskedDrawsOnce := by
  refine ⟨encodedBy_of_group fun z w hg => ?encoding, fun x kk s => ⟨_, exec_randomMasked x kk s, rfl,
    memSame_of_mem_eq rfl, regsSameExcept_setV (s.setRng (Config.prngNext s.rng)) x _, ?value, fun b hb => ?masked⟩⟩
  case encoding =>
    obtain ⟨-, -, -, -, hrandom, -⟩ := groupsNineToThirteenDecode z w
    exact hrandom hg
  case value => rw [State.getV_setV_same, lowByte_and_toNat]
  case masked => rw [State.getV_setV_same, BitVec.getLsbD_and, hb, Bool.and_false]

/-! ### Every other instruction runs alike whatever the generator holds -/

theorem State.skipIf_setRng (s : State) (r : BitVec 64) (b : Bool) : (s.setRng r).skipIf b = (s.skipIf b).setRng r := by
  cases b <;> rfl

theorem State.withAddrs_setRng {effect effect' : List Addr → State}
    (heffect : ∀ as, effect' as = (effect as).setRng r) (h : s.withAddrs n effect = .next t) :
    (s.setRng r).withAddrs n effect' = .next (t.setRng r) := by
  by_cases htouch : s.CanTouch n
  · have htouch' : (s.setRng r).CanTouch n := htouch
    rw [State.withAddrs_of_canTouch htouch] at h
    cases h
    exact (State.withAddrs_of_canTouch htouch' effect').trans (congrArg _ (heffect _))
  · have htouch' : ¬ (s.setRng r).CanTouch n := htouch
    rw [State.withAddrs_of_not_canTouch htouch] at h
    cases h
    exact State.withAddrs_of_not_canTouch htouch' effect'

theorem exec_callSubroutine_setRng {nnn : Addr} (h : exec (.callSubroutine nnn) s = .next t) :
    exec (.callSubroutine nnn) (s.setRng r) = .next (t.setRng r) := by
  rcases Nat.lt_or_ge s.stack.length 48 with hroom | hfull
  · rw [exec_callSubroutine_of_room nnn hroom] at h
    cases h
    exact exec_callSubroutine_of_room nnn hroom
  · rw [exec_callSubroutine_of_full nnn hfull] at h
    cases h
    exact exec_callSubroutine_of_full nnn hfull

theorem exec_returnFromSubroutine_setRng (h : exec .returnFromSubroutine s = .next t) :
    exec .returnFromSubroutine (s.setRng r) = .next (t.setRng r) := by
  cases hstack : s.stack with
  | nil =>
    rw [exec_returnFromSubroutine_of_nil hstack] at h
    cases h
    exact exec_returnFromSubroutine_of_nil hstack
  | cons top rest =>
    rw [exec_returnFromSubroutine_of_cons hstack] at h
    cases h
    exact exec_returnFromSubroutine_of_cons hstack

/-- Only the skips, the call, the return and the accesses to memory branch, none of them on `rng`. -/
theorem exec_setRng (hi : ∀ x kk, i ≠ .randomMasked x kk) (h : exec i s = .next t) :
    exec i (s.setRng r) = .next (t.setRng r) := by
  cases i with
  | randomMasked x kk => exact absurd rfl (hi x kk)
  | callSubroutine nnn => exact exec_callSubroutine_setRng h
  | returnFromSubroutine => exact exec_returnFromSubroutine_setRng h
  | skipIfRegEqualsConst | skipIfRegNotEqualsConst | skipIfRegEqualsReg | skipIfRegNotEqualsReg =>
    cases h
    exact congrArg _ (State.skipIf_setRng s r _)
  | drawSprite | storeBCD | dumpRegistersToMemory | loadRegistersFromMemory =>
    exact State.withAddrs_setRng (fun _ => rfl) h
  | _ =>
    cases h
    rfl

/-! ### And so does the cycle -/

theorem State.finish_setRng (t : State) (r : BitVec 64) : (t.setRng r).finish = t.finish.setRng r := by
  cases ht : t.status with
  | running =>
    rw [finish_of_running ht]
    exact finish_of_running ht
  | faulted k =>
    rw [finish_of_faulted ht]
    exact finish_of_faulted ht

theorem State.report_setRng (t : State) (r : BitVec 64) : (t.setRng r).report = t.report := rfl

theorem cycle_setRng {res : CycleResult} (r : BitVec 64)
    (hother : ∀ d x kk, s.program[s.pc]? = some d → d.instr ≠ .randomMasked x kk) (h : cycle s = .next (t, res)) :
    cycle (s.setRng r) = .next (t.setRng r, res) := by
  cases hs : s.status with
  | faulted k =>
    rw [cycle_of_faulted hs] at h
    cases h
    exact cycle_of_faulted hs
  | running =>
    cases hfetch : s.program[s.pc]? with
    | none =>
      rw [cycle_of_fetch_none hs hfetch] at h
      cases h
      exact cycle_of_fetch_none hs hfetch
    | some d =>
      obtain ⟨u, he, rfl, rfl⟩ := cycle_of_fetch_cases hs hfetch h
      have he' : exec d.instr (s.begin.setRng r) = .next (u.setRng r) :=
        exec_setRng (fun x kk => hother d x kk hfetch) he
      rw [cycle_of_exec (s := s.setRng r) hs hfetch he', State.finish_setRng, State.report_setRng]

/-- Settles O30: the cycle is the same for every `rng`; taken at the `rng` the state has, it leaves that one. -/
theorem generatorUnseenByOthers : Obligations.GeneratorUnseenByOthers := by
  intro s t r res hother h
  have hkept : cycle s = .next (t.setRng s.rng, res) := cycle_setRng s.rng hother h
  have ht : t = t.setRng s.rng := congrArg Prod.fst (Host.Outcome.next.inj (h.symm.trans hkept))
  exact ⟨by rw [ht, State.setRng_rng], cycle_setRng r hother h⟩

end Sys2Proof.Machine

/-! The display (47_display.md): ClearDisplay, and DrawSprite through the list of pixels a sprite flips. -/

namespace Sys2Proof

/-- The low byte of a word under a mask that covers it, next to `group_of_masked` for the top digit. -/
theorem lowByte_of_masked {w mask value : Word} (h : w &&& mask = value) (hmask : fieldKK mask = BitVec.allOnes 8) :
    w.toNat % 256 = value.toNat % 256 := by
  have hbyte : fieldKK w = fieldKK value := extract_of_masked h 0 8 hmask
  rw [← fieldKK_toNat, hbyte, fieldKK_toNat]

/-- An instruction with one word, which every reading of group 0 decodes to it. -/
theorem encodedBy_of_word {value : Word} {i : Instr} (h : ∀ z, decode z value = .ok i) :
    EncodedBy 0xFFFF value fun _ => i := by
  intro z w hw
  have hword : w = value := BitVec.and_allOnes.symm.trans hw
  rw [hword, h z]

end Sys2Proof

namespace Sys2Proof.Machine

variable {s u : State} {x y : RegIdx} {n : BitVec 4} {c : Fin 64} {r : Fin 32}

/-! ### ClearDisplay (R241) -/

theorem exec_clearDisplay (s : State) :
    exec .clearDisplay s = .next { s with fb := Framebuffer.blank, frameChanged := true } := rfl

/-- Settles O52: the word 0x00E0 is one of the source's examples, and under `literal` the group and the low byte select
the instruction. -/
theorem clearDisplayBlanksFrame : Obligations.ClearDisplayBlanksFrame := by
  refine ⟨encodedBy_of_word fun z => ?word, fun w hw => ?literal, fun s => ⟨_, exec_clearDisplay s, rfl,
    memSame_of_mem_eq rfl, fun r _ => State.getV_congr rfl r, Framebuffer.get_blank⟩⟩
  case word =>
    obtain ⟨hclear, -⟩ := sourceExampleWordsDecode z
    exact hclear
  case literal =>
    exact decode_clearDisplay (z := .literal) (group_of_masked hw (by decide)) (lowByte_of_masked hw (by decide))

/-! ### The pixels DrawSprite flips (R240, R242) -/

/-- The other direction of `State.touched_getElem?`: the address listed at offset `k` is the one the access has. -/
theorem State.ea_eq_touched {m k : Nat} (h : s.CanTouch m) (hk : k < (s.touched m).length) :
    s.ea k = .ok (s.touched m)[k] := by
  rw [State.ea_of_canTouch h (by simpa using hk)]
  simp [State.touched]

/-- The pixels that `DXYN` flips in state `s`, in the order drawn: those of the bytes at the `n` addresses from I on. -/
def State.flippedPixels (s : State) (x y : RegIdx) (n : BitVec 4) : List (Fin 64 × Fin 32) :=
  spritePixels (s.getV x).toNat (s.getV y).toNat 0 ((s.touched n.toNat).map fun a => s.mem.read a)

theorem State.mem_flippedPixels (h : s.CanTouch n.toNat) :
    (c, r) ∈ s.flippedPixels x y n ↔ s.SpritePixel x y n c r := by
  simp only [State.flippedPixels, mem_spritePixels, List.length_map, State.length_touched, List.getElem_map,
    zero_add]
  constructor
  · rintro ⟨row, hrow, col, hcol, hbit, hc, hr⟩
    exact ⟨row, col, hrow, hcol, hc, hr, _, State.ea_eq_touched h _, hbit⟩
  · rintro ⟨row, col, hrow, hcol, hc, hr, a, ha, hbit⟩
    obtain ⟨hin, rfl⟩ := List.getElem?_eq_some_iff.1 (State.touched_getElem? h hrow ha)
    exact ⟨row, hrow, col, hcol, hbit, hc, hr⟩

theorem State.nodup_flippedPixels (s : State) (x y : RegIdx) (n : BitVec 4) : (s.flippedPixels x y n).Nodup := by
  have hn := n.isLt
  refine nodup_spritePixels _ _ _ _ ?_
  rw [List.length_map, State.length_touched]
  omega

/-! ### The state DrawSprite leaves (R242) -/

/-- The framebuffer after the sprite's pixels flipped, and whether one of them was set. -/
def State.drawn (s : State) (x y : RegIdx) (n : BitVec 4) : Framebuffer × Bool :=
  drawPixels s.fb false (s.flippedPixels x y n)

theorem exec_drawSprite (h : s.CanTouch n.toNat) :
    exec (.drawSprite x y n) s =
      .next ({ s with fb := (s.drawn x y n).1, frameChanged := true }.setV 15 (flagByte (s.drawn x y n).2)) :=
  State.withAddrs_of_canTouch h _

theorem State.get_drawn (h : s.CanTouch n.toNat) (hpixel : s.SpritePixel x y n c r) :
    (s.drawn x y n).1.get c r = !(s.fb.get c r) := by
  rw [State.drawn, drawPixels_get _ _ _ (s.nodup_flippedPixels x y n), if_pos ((State.mem_flippedPixels h).2 hpixel)]

theorem State.get_drawn_of_not_spritePixel (h : s.CanTouch n.toNat) (hpixel : ¬ s.SpritePixel x y n c r) :
    (s.drawn x y n).1.get c r = s.fb.get c r := by
  rw [State.drawn, drawPixels_get _ _ _ (s.nodup_flippedPixels x y n),
    if_neg (mt (State.mem_flippedPixels h).1 hpixel)]

theorem State.drawn_collides_iff (h : s.CanTouch n.toNat) :
    (s.drawn x y n).2 = true ↔ ∃ c r, s.SpritePixel x y n c r ∧ s.fb.get c r = true := by
  simp [State.drawn, drawPixels_collision _ _ _ (s.nodup_flippedPixels x y n), State.mem_flippedPixels h]

/-- Settles O53: the draw flips each pixel of a list without duplicates, which lists exactly the sprite's pixels. -/
theorem drawSpriteFlipsAndCollides : Obligations.DrawSpriteFlipsAndCollides := by
  intro x y n s h
  refine ⟨_, exec_drawSprite h, rfl, memSame_of_mem_eq rfl, regsSameExcept_setV _ 15 _,
    fun c r => State.get_drawn h, fun c r => State.get_drawn_of_not_spritePixel h,
    fun hset => ?set, fun hclear => ?clear⟩
  case set => rw [State.getV_setV_same, (State.drawn_collides_iff h).2 hset, flagByte, if_pos rfl]
  case clear =>
    have hnone : (s.drawn x y n).2 = false := by
      rw [Bool.eq_false_iff, Ne, State.drawn_collides_iff h]
      rintro ⟨c, r, hpixel, hset⟩
      simp [hclear c r hpixel] at hset
    rw [State.getV_setV_same, hnone]
    rfl

/-! ### The same sprite again -/

/-- Which pixels a sprite covers depends on the inputs of the draw alone: the framebuffer is none of them. -/
theorem State.spritePixel_congr (hx : u.getV x = s.getV x) (hy : u.getV y = s.getV y) (hmem : u.mem = s.mem)
    (hi : u.i = s.i) (hparams : u.params = s.params) : u.SpritePixel x y n c r ↔ s.SpritePixel x y n c r := by
  simp only [State.SpritePixel, State.ea, hx, hy, hmem, hi, hparams]

/-- Settles O54: a pixel flipped twice is as before, and one the second draw finds set was clear before the first. -/
theorem secondDrawRestoresFrame : Obligations.SecondDrawRestoresFrame := by
  intro x y n s h
  obtain ⟨t, hdraw, -, -, -, hflip, hkeep, -⟩ := drawSpriteFlipsAndCollides x y n s h
  refine ⟨t, hdraw, fun u hfb hx hy hmem hi hparams => ?_⟩
  have hu : u.CanTouch n.toNat := by rwa [State.CanTouch, hi, hparams]
  have hpixel (c : Fin 64) (r : Fin 32) : u.SpritePixel x y n c r ↔ s.SpritePixel x y n c r :=
    State.spritePixel_congr hx hy hmem hi hparams
  obtain ⟨w, hdraw', -, -, -, hflip', hkeep', hset, hclear⟩ := drawSpriteFlipsAndCollides x y n u hu
  simp only [hpixel, hfb] at hflip' hkeep' hset hclear
  refine ⟨w, hdraw', Framebuffer.ext_get fun c r => ?restored, ?collides, ?clear⟩
  case restored =>
    by_cases hp : s.SpritePixel x y n c r
    · rw [hflip' c r hp, hflip c r hp, Bool.not_not]
    · rw [hkeep' c r hp, hkeep c r hp]
  case collides =>
    intro hone
    by_contra! hall
    have hzero : w.getV 15 = 0 := hclear fun c r hp => by simp [hflip c r hp, hall c r hp]
    simp [hzero] at hone
  case clear =>
    rintro ⟨c, r, hp, hbefore⟩
    exact hset ⟨c, r, hp, by rw [hflip c r hp, hbefore, Bool.not_false]⟩

end Sys2Proof.Machine

/-! Faults (48_not_implemented.md, 60_exceptions.md): an instruction raises exactly the faults of `State.Raises`, and a
raised fault leaves nothing but the status behind. -/

namespace Sys2Proof.Machine

variable {s t : State} {i : Instr} {f : Fault}

/-- Settles O55: each identity has its one instruction, whose arm raises it whatever the operands. -/
theorem unimplementedInstructionsRaise : Obligations.UnimplementedInstructionsRaise := by
  intro i u s hraised
  cases u with
  | callMachineRoutine => obtain ⟨nnn, rfl⟩ := hraised; rfl
  | skipIfKeyPressed | skipIfKeyNotPressed | awaitKeyThenStore | setIndexToSpriteGlyph =>
    obtain ⟨x, rfl⟩ := hraised; rfl

/-- The conditions of `State.Raises` are sufficient: under them the fault is what the instruction answers. -/
theorem exec_of_raises (h : s.Raises i f) : exec i s = .next (s.raise f) := by
  cases h with
  | notImplemented raisedBy => exact unimplementedInstructionsRaise i _ s raisedBy
  | stackOverflow nnn full => exact exec_callSubroutine_of_full nnn full
  | stackUnderflow empty => exact exec_returnFromSubroutine_of_nil empty
  | memoryBounds past => exact exec_of_not_canTouch past

/-- An instruction of a running core leaves it faulted only by raising the fault, which changes nothing else. -/
theorem exec_faulted_cases (hrun : s.status = .running) (h : exec i s = .next t) (hf : t.status = .faulted f) :
    s.Raises i f ∧ t = s.raise f := by
  obtain ⟨f', hraises, rfl⟩ | hc := exec_cases h
  · obtain rfl : f' = f := Status.faulted.inj hf
    exact ⟨hraises, rfl⟩
  · rw [hc.status_eq, hrun] at hf
    cases hf

theorem exec_status_faulted_iff (hrun : s.status = .running) (h : exec i s = .next t) :
    t.status = .faulted f ↔ s.Raises i f := by
  refine ⟨fun hf => (exec_faulted_cases hrun h hf).1, fun hraises => ?_⟩
  cases (exec_of_raises hraises).symm.trans h
  rfl

/-- Settles O23: the fault was raised in the prepared state (R112, R115), and finishing a faulted state keeps it. -/
theorem raisedFaultIsPrecise : Obligations.RaisedFaultIsPrecise := by
  intro s t d k hrun hfetch he hk
  have hcycle : cycle s = .next (t, .fault k) := by
    rw [cycle_of_exec hrun hfetch he, finish_of_faulted hk, report_of_faulted hk]
  exact ⟨(exec_faulted_cases (s := s.begin) hrun he hk).2, hcycle, step_of_cycle hrun hcycle⟩

/-! ### The conditions that R270 names -/

theorem State.not_canTouch_iff {n : Nat} :
    ¬ s.CanTouch n ↔ s.params.memAddrOverflow = .fault ∧ 0x1000 < s.i.toNat + n := by
  cases hm : s.params.memAddrOverflow <;> simp [State.CanTouch, hm]

theorem State.raises_stackOverflow_iff :
    s.Raises i .stackOverflow ↔ (∃ nnn, i = .callSubroutine nnn) ∧ 48 ≤ s.stack.length := by
  constructor
  · intro h
    cases h with
    | stackOverflow nnn full => exact ⟨⟨nnn, rfl⟩, full⟩
  · rintro ⟨⟨nnn, rfl⟩, full⟩
    exact .stackOverflow nnn full

theorem State.raises_stackUnderflow_iff :
    s.Raises i .stackUnderflow ↔ i = .returnFromSubroutine ∧ s.stack = [] := by
  constructor
  · intro h
    cases h with
    | stackUnderflow empty => exact ⟨rfl, empty⟩
  · rintro ⟨rfl, empty⟩
    exact .stackUnderflow empty

theorem State.raises_notImplemented_iff {u : Unimplemented} :
    s.Raises i (.notImplemented u) ↔ u.isRaisedBy i := by
  refine ⟨fun h => ?_, .notImplemented⟩
  cases h with
  | notImplemented raisedBy => exact raisedBy

theorem State.raises_memoryBounds_iff {a : Nat} :
    s.Raises i (.memoryBounds a) ↔
      s.params.memAddrOverflow = .fault ∧ a = 0x1000 ∧ 0x1000 < s.i.toNat + i.touches := by
  constructor
  · intro h
    cases h with
    | memoryBounds past =>
      obtain ⟨hmode, hpast⟩ := State.not_canTouch_iff.1 past
      exact ⟨hmode, rfl, hpast⟩
  · rintro ⟨hmode, rfl, hpast⟩
    exact .memoryBounds (State.not_canTouch_iff.2 ⟨hmode, hpast⟩)

/-- Settles O24: a status of faulted is a raised fault, and each kind of fault has its condition. -/
theorem faultsRaisedOnlyWhereNamed : Obligations.FaultsRaisedOnlyWhereNamed := by
  intro i s hrun
  obtain ⟨t, he, -⟩ := exec_effect i s
  have hraises {f : Fault} : t.status = .faulted f ↔ s.Raises i f := exec_status_faulted_iff hrun he
  exact ⟨t, he, hraises.trans State.raises_stackOverflow_iff, hraises.trans State.raises_stackUnderflow_iff,
    fun _ => hraises.trans State.raises_notImplemented_iff, fun _ => hraises.trans State.raises_memoryBounds_iff⟩

end Sys2Proof.Machine

/-! Creation from words (70_reset_and_hazards.md R300): a program whose words all decode, and the first word that is no
instruction. -/

namespace Sys2Proof.Machine

variable {z : ZeroGroupDecode} {k n : Nat} {v w : Word} {i : Instr} {prog : List Word} {r reason : IllegalWord}
  {e : DecodeError} {ds : List Decoded} {p : Params} {seed : BitVec 64}

/-! ### A program that decodes -/

theorem decodeProgram_of_forall_ok (h : ∀ w ∈ prog, ∃ i, decode z w = .ok i) :
    ∃ ds, decodeProgram z k prog = .ok ds ∧ ds.map Decoded.word = prog ∧
      ∀ d ∈ ds, decode z d.word = .ok d.instr := by
  induction prog generalizing k with
  | nil => exact ⟨[], rfl, rfl, by simp⟩
  | cons w prog ih =>
    obtain ⟨⟨i, hi⟩, hrest⟩ := List.forall_mem_cons.1 h
    obtain ⟨ds, hds, hwords, hdecoded⟩ := ih (k := k + 1) hrest
    refine ⟨{ instr := i, word := w } :: ds, ?_, congrArg (w :: ·) hwords, List.forall_mem_cons.2 ⟨hi, hdecoded⟩⟩
    rw [decodeProgram_cons_of_ok hi, hds]
    rfl

/-- A created machine differs from the reset state in its store, seed and parameters alone, and of these the invariant
asks only that the store was decoded. -/
theorem createdState_inv (h : ∀ d ∈ ds, decode p.zeroGroupDecode d.word = .ok d.instr) :
    (createdState p ds seed).Inv :=
  { resetMeetsInvariant with
    stackEntries := by simp [createdState, State.reset]
    pcBound := Nat.zero_le _
    programDecoded := h
    boundsFault := by simp [createdState, State.reset] }

/-- Settles O4: the words decode to the store, and creation puts it into the reset state. -/
theorem creationDecodesEveryWord : Obligations.CreationDecodesEveryWord := by
  intro p prog seed h
  obtain ⟨ds, hds, hwords, hdecoded⟩ := decodeProgram_of_forall_ok (k := 0) h
  refine ⟨createdState p ds seed, ?_, hwords, hdecoded, rfl, createdState_inv hdecoded⟩
  rw [create, hds]

/-! ### The first word that is no instruction (R271) -/

/-- Index `n` of the program holds a word that the decoder refuses, and every word before it is an instruction. -/
def FirstIllegal (z : ZeroGroupDecode) (prog : List Word) (n : Nat) (w : Word) (reason : IllegalWord) : Prop :=
  prog[n]? = some w ∧ decode z w = .error reason ∧
    ∀ j, j < n → ∀ v, prog[j]? = some v → ∃ i, decode z v = .ok i

theorem firstIllegal_nil : ¬ FirstIllegal z [] n w reason := by
  simp [FirstIllegal]

/-- A first word that is no instruction is the first one. -/
theorem firstIllegal_cons_of_error (hv : decode z v = .error r) :
    FirstIllegal z (v :: prog) n w reason ↔ n = 0 ∧ w = v ∧ reason = r := by
  constructor
  · rintro ⟨hw, hreason, hbefore⟩
    obtain rfl : n = 0 := by
      by_contra hn
      obtain ⟨i, hi⟩ := hbefore 0 (Nat.pos_of_ne_zero hn) v rfl
      simp [hv] at hi
    obtain rfl : v = w := Option.some.inj hw
    exact ⟨rfl, rfl, Except.error.inj (hreason.symm.trans hv)⟩
  · rintro ⟨rfl, rfl, rfl⟩
    exact ⟨rfl, hv, fun j hj => absurd hj j.not_lt_zero⟩

theorem not_firstIllegal_zero_of_ok (hv : decode z v = .ok i) : ¬ FirstIllegal z (v :: prog) 0 w reason := by
  rintro ⟨hw, hreason, -⟩
  cases hw
  simp [hv] at hreason

/-- After a first word that is an instruction, the first illegal one is that of the rest. -/
theorem firstIllegal_succ_of_ok (hv : decode z v = .ok i) :
    FirstIllegal z (v :: prog) (n + 1) w reason ↔ FirstIllegal z prog n w reason := by
  simp only [FirstIllegal, Nat.forall_lt_succ_left]
  simp [hv]

theorem decodeProgram_cons_of_error (hv : decode z v = .error r) :
    decodeProgram z k (v :: prog) = .error (.illegalWord k v r) := by
  simp only [decodeProgram, hv]

/-- The only error of a program is its first word that is no instruction, with the number of its line. -/
theorem decodeProgram_eq_error_iff :
    decodeProgram z k prog = .error e ↔
      ∃ n w reason, FirstIllegal z prog n w reason ∧ e = .illegalWord (k + n) w reason := by
  induction prog generalizing k with
  | nil => simp [decodeProgram, firstIllegal_nil]
  | cons v prog ih =>
    cases hv : decode z v with
    | error r => simp [decodeProgram_cons_of_error hv, firstIllegal_cons_of_error hv, eq_comm]
    | ok i =>
      have hrest : decodeProgram z k (v :: prog) = .error e ↔ decodeProgram z (k + 1) prog = .error e := by
        rw [decodeProgram_cons_of_ok hv]
        cases decodeProgram z (k + 1) prog <;> simp [Except.map]
      refine hrest.trans (ih.trans (Iff.trans ?_ Nat.or_exists_add_one))
      simp [not_firstIllegal_zero_of_ok hv, firstIllegal_succ_of_ok hv, Nat.add_assoc, Nat.add_comm 1]

theorem create_eq_error_iff :
    create p prog seed = .error e ↔
      ∃ n w reason, FirstIllegal p.zeroGroupDecode prog n w reason ∧ e = .illegalWord n w reason := by
  have h := decodeProgram_eq_error_iff (z := p.zeroGroupDecode) (k := 0) (prog := prog) (e := e)
  simp only [Nat.zero_add] at h
  rw [← h, create]
  cases decodeProgram p.zeroGroupDecode 0 prog <;> simp

/-- Settles O5: the only error of creation is the first illegal word. -/
theorem creationRefusesFirstIllegalWord : Obligations.CreationRefusesFirstIllegalWord := by
  intro p prog seed
  refine ⟨fun k w e => ?_, fun k text h => ?_⟩
  · rw [create_eq_error_iff]
    constructor
    · rintro ⟨n, w', reason, hfirst, heq⟩
      cases heq
      exact hfirst
    · exact fun hfirst => ⟨k, w, e, hfirst, rfl⟩
  · obtain ⟨n, w, reason, -, heq⟩ := create_eq_error_iff.1 h
    cases heq

end Sys2Proof.Machine
